-- ==== Sys2Proof/Word.lean ====
section
/-! DEFINITION. The word types of the Keccak engine. -/

namespace Sys2Proof

/-- A command word, and the value word of a response: 32 bits, bit 0 the least significant (30_encoding.md R60, R69). -/
abbrev Word := BitVec 32

/-- A byte; bit 0 stands for the first of its eight bits (20_memory.md R41). -/
abbrev Byte := BitVec 8

/-- The storage of the bit state array A, bit `i` being `A_lin[i]` (10_state.md R14). An array of width `B` uses the
bits below `B`; the others do not exist and are held 0 (DESIGN CHOICE, log entry 4). -/
abbrev Bits := BitVec 1600

end Sys2Proof
end

