-- ==== Sys2Proof/Syntax.lean ====
section
/-! DEFINITION. The commands of KECCAK-CMD version 1: one constructor per row of the opcode table, operands in the order of
the assembler syntax (30_encoding.md R70), each field at the width of R62. -/

namespace Sys2Proof

/-- One command (30_encoding.md R63). -/
inductive Instr where
  /-- RESET (43_system.md R150). -/
  | reset
  /-- RDSTAT (43_system.md R151). -/
  | rdstat
  /-- FNEW b (40_bitstate_config.md R80). -/
  | fnew (b : BitVec 11)
  /-- PNEW b, nr (40_bitstate_config.md R82). -/
  | pnew (b : BitVec 11) (nr : BitVec 8)
  /-- BGET x, y, z (40_bitstate_config.md R84). -/
  | bget (x y : BitVec 3) (z : BitVec 7)
  /-- BSET x, y, z, v (40_bitstate_config.md R85). -/
  | bset (x y : BitVec 3) (z : BitVec 7) (v : Bool)
  /-- THETA (41_permutation.md R107). -/
  | theta
  /-- RHO (41_permutation.md R108). -/
  | rho
  /-- PI (41_permutation.md R109). -/
  | pi
  /-- CHI (41_permutation.md R110). -/
  | chi
  /-- IOTA ir (41_permutation.md R111). -/
  | iota (ir : BitVec 8)
  /-- ROUND ir (41_permutation.md R112). -/
  | round (ir : BitVec 8)
  /-- PERMUTE (41_permutation.md R113). -/
  | permute
  /-- SNEW p (42_sponge.md R124). -/
  | snew (p : BitVec 3)
  /-- SNEWC rate, suffix: bit `i` of `sfx` is the (i+1)-th suffix bit (42_sponge.md R125). -/
  | snewc (rate : BitVec 11) (sfxlen : BitVec 3) (sfx : BitVec 7)
  /-- ABSORB of the first `cnt` of the bytes d0, d1, d2 (42_sponge.md R126). -/
  | absorb (cnt : BitVec 2) (d0 d1 d2 : Byte)
  /-- SQUEEZE n (42_sponge.md R131). -/
  | squeeze (n : BitVec 16)
  /-- DIGEST (42_sponge.md R136). -/
  | digest
  deriving DecidableEq, Repr

end Sys2Proof
end

