-- ==== Sys2Proof/WellFormed.lean ====
section
/-! DEFINITION. The reserved field values a command must avoid (30_encoding.md R67): the part of decode stage 2 that is
about the fields a constructor of Instr carries. The other reserved fields (the "zero" fields, the nr field of FNEW, the v
field of BGET) have no place in Instr, and the decoder refuses them. -/

namespace Sys2Proof

namespace WellFormed

/-- SNEW: `p` = 6 and `p` = 7 are reserved (R67). -/
def profileDefined (p : BitVec 3) : Bool := p.toNat < 6

/-- SNEWC: "every bit sfx[i] with i ≥ sfxlen must be 0" (R67). -/
def suffixFits (sfxlen : BitVec 3) (sfx : BitVec 7) : Bool := sfx >>> sfxlen.toNat == 0#7

/-- ABSORB: "data bytes beyond `cnt` must be 0" (R67). -/
def dataFits (cnt : BitVec 2) (d0 d1 d2 : Byte) : Bool :=
  (cnt.toNat ≥ 1 || d0 == 0#8) && (cnt.toNat ≥ 2 || d1 == 0#8) && (cnt.toNat ≥ 3 || d2 == 0#8)

end WellFormed

/-- Every field avoids its reserved values (30_encoding.md R67). -/
def Instr.wellFormed : Instr → Bool
  | .reset => true
  | .rdstat => true
  | .fnew _ => true
  | .pnew _ _ => true
  | .bget _ _ _ => true
  | .bset _ _ _ _ => true
  | .theta => true
  | .rho => true
  | .pi => true
  | .chi => true
  | .iota _ => true
  | .round _ => true
  | .permute => true
  | .snew p => WellFormed.profileDefined p
  | .snewc _ sfxlen sfx => WellFormed.suffixFits sfxlen sfx
  | .absorb cnt d0 d1 d2 => WellFormed.dataFits cnt d0 d1 d2
  | .squeeze _ => true
  | .digest => true

end Sys2Proof
end

