-- ==== Sys2Proof/Decode.lean ====
section
/-! DEFINITION. Decode stages 1 and 2 (30_encoding.md R64 to R67), total on command words and refusing by name, and the
encoder from the same tables (R61, R63). -/

namespace Sys2Proof

/-- Why a word is no command. Each of them raises IllegalCommand (30_encoding.md R64). -/
inductive DecodeError where
  /-- Stage 1: the opcode is not one of the 18 of R63 (R66). -/
  | undefinedOpcode (op : BitVec 6)
  /-- Stage 2: a bit of a "zero" field is 1 (R65). -/
  | reservedBit
  /-- Stage 2: a field holds a reserved value (R67). -/
  | reservedField
  deriving DecidableEq, Repr

/-- Bits `lo + len - 1` down to `lo` of a command word (30_encoding.md R62). -/
def field (w : Word) (lo len : Nat) : BitVec len := w.extractLsb' lo len

/-- Bits 31:26, the opcode in every format (R60). -/
def opcodeField (w : Word) : BitVec 6 := field w 26 6

/-- A "zero" field holds only zeros (R65). -/
def zeroField (w : Word) (lo len : Nat) : Bool := field w lo len == 0#len

/-- Stage 2 for one command: the format's zero field `[lo, lo + len)`, then the reserved field values (R65, R67). -/
def checkForm (w : Word) (lo len : Nat) (extra : Bool) (i : Instr) : Except DecodeError Instr :=
  if !zeroField w lo len then .error .reservedBit
  else if !(extra && i.wellFormed) then .error .reservedField
  else .ok i

/-- Format N: no operand. -/
def decodeN (w : Word) (i : Instr) : Except DecodeError Instr := checkForm w 0 26 true i

/-- Decode stages 1 and 2 (R64): formats of R61, fields of R62, opcodes of R63. -/
def decode (w : Word) : Except DecodeError Instr :=
  match (opcodeField w).toNat with
  | 0x01 => decodeN w .reset
  | 0x02 => decodeN w .rdstat
  | 0x08 => checkForm w 19 7 (zeroField w 11 8) (.fnew (field w 0 11))
  | 0x09 => checkForm w 19 7 true (.pnew (field w 0 11) (field w 11 8))
  | 0x0A => checkForm w 14 12 (zeroField w 13 1) (.bget (field w 10 3) (field w 7 3) (field w 0 7))
  | 0x0B => checkForm w 14 12 true (.bset (field w 10 3) (field w 7 3) (field w 0 7) (w.getLsbD 13))
  | 0x10 => decodeN w .theta
  | 0x11 => decodeN w .rho
  | 0x12 => decodeN w .pi
  | 0x13 => decodeN w .chi
  | 0x14 => checkForm w 8 18 true (.iota (field w 0 8))
  | 0x15 => checkForm w 8 18 true (.round (field w 0 8))
  | 0x16 => decodeN w .permute
  | 0x20 => checkForm w 3 23 true (.snew (field w 0 3))
  | 0x21 => checkForm w 21 5 true (.snewc (field w 0 11) (field w 11 3) (field w 14 7))
  | 0x22 => checkForm w 0 0 true (.absorb (field w 24 2) (field w 0 8) (field w 8 8) (field w 16 8))
  | 0x23 => checkForm w 16 10 true (.squeeze (field w 0 16))
  | 0x24 => decodeN w .digest
  | _ => .error (.undefinedOpcode (opcodeField w))

/-- The opcode of each command (R63). -/
def Instr.opcode : Instr → BitVec 6
  | .reset => 0x01#6
  | .rdstat => 0x02#6
  | .fnew _ => 0x08#6
  | .pnew _ _ => 0x09#6
  | .bget _ _ _ => 0x0A#6
  | .bset _ _ _ _ => 0x0B#6
  | .theta => 0x10#6
  | .rho => 0x11#6
  | .pi => 0x12#6
  | .chi => 0x13#6
  | .iota _ => 0x14#6
  | .round _ => 0x15#6
  | .permute => 0x16#6
  | .snew _ => 0x20#6
  | .snewc _ _ _ => 0x21#6
  | .absorb _ _ _ _ => 0x22#6
  | .squeeze _ => 0x23#6
  | .digest => 0x24#6

/-- An operand shifted to its field (R63). -/
def place {n : Nat} (v : BitVec n) (lo : Nat) : Word := v.setWidth 32 <<< lo

/-- The operand fields of a command, each shifted to its place, the rest 0 (R63). -/
def Instr.operandBits : Instr → Word
  | .reset => 0#32
  | .rdstat => 0#32
  | .fnew b => place b 0
  | .pnew b nr => place nr 11 ||| place b 0
  | .bget x y z => place x 10 ||| place y 7 ||| place z 0
  | .bset x y z v => place (BitVec.ofBool v) 13 ||| place x 10 ||| place y 7 ||| place z 0
  | .theta => 0#32
  | .rho => 0#32
  | .pi => 0#32
  | .chi => 0#32
  | .iota ir => place ir 0
  | .round ir => place ir 0
  | .permute => 0#32
  | .snew p => place p 0
  | .snewc rate sfxlen sfx => place sfx 14 ||| place sfxlen 11 ||| place rate 0
  | .absorb cnt d0 d1 d2 => place cnt 24 ||| place d2 16 ||| place d1 8 ||| place d0 0
  | .squeeze n => place n 0
  | .digest => 0#32

/-- "The full word of a command is the table's word ORed with each operand shifted to its field" (R63). -/
def encode (i : Instr) : Word := place i.opcode 26 ||| i.operandBits

/-- The instruction the decoder reads from a command word given as a number, bit 0 the least significant (R60). -/
def decodeTableWord (nbits w : Nat) : Option Instr := (decode (BitVec.ofNat 32 (w % 2 ^ nbits))).toOption

end Sys2Proof
end

