-- ==== Sys2Proof/Config.lean ====
section
/-! DEFINITION. What an implementation fixes: the parameters of 00_scope.md R7. -/

namespace Sys2Proof

/-- The open parameter of one engine. It is carried in the state as data no command changes, so that every statement
holds for every value of it (DESIGN CHOICE, log entry 1). -/
structure Config where
  /-- `MSG_CAP`: the capacity of the message buffer in bytes; `none` is "unbounded" (00_scope.md R7, 92_eei_decisions.md D9). -/
  msgCap : Option Nat
  deriving DecidableEq, Repr

namespace Config

/-- `NR_MAX`: the largest round count a PNEW carries (R7). -/
def nrMax : Nat := 255

/-- `SQ_MAX`: the largest byte count a SQUEEZE carries (R7). -/
def sqMax : Nat := 65535

/-- `SFX_MAX`: the longest custom domain suffix in bits (R7). -/
def sfxMax : Nat := 7

end Config

end Sys2Proof
end

