-- ==== Sys2Proof/Machine/State.lean ====
section
/-! DEFINITION. The state of one engine (10_state.md R13), the records of its command port, the reasons a step can stop,
and the state after reset (R32). -/

namespace Sys2Proof.Machine

/-- MODE: which kind of instance the engine holds (10_state.md R18). The encoding 3 is reserved and never produced, so the
type leaves it out (93_implementation_defined.md X5, DEDUCED, log entry 6). -/
inductive Mode where
  | idle
  | perm
  | sponge
  deriving DecidableEq, Repr

/-- PHASE: the sponge's phase (10_state.md R23). The encoding 3, the name "Exhausted", is never produced, so the type
leaves it out (90_conflicts.md C7, DEDUCED, log entry 6). -/
inductive Phase where
  | none
  | absorbing
  | squeezing
  deriving DecidableEq, Repr

/-- The six errors a command can raise (60_exceptions.md R160). -/
inductive EngineError where
  | invalidWidth
  | invalidRate
  | spongeMisuse
  | illegalCommand
  | boundsViolation
  | bufferOverflow
  deriving DecidableEq, Repr

/-- The record a command returns (30_encoding.md R69). -/
structure Response where
  /-- The 4-bit error code, 0 for OK. -/
  err : BitVec 4
  /-- The 32-bit value word. -/
  val : Word
  /-- The output bytes in emission order. -/
  dout : List Byte
  deriving DecidableEq, Repr

/-- What the outside can do to the engine: the host issues a command (00_scope.md R12), the platform asserts reset between
commands or while a command is in progress (70_reset_and_hazards.md R180; DESIGN CHOICE, log entry 9). -/
inductive HostInput where
  /-- The host issues a command word. -/
  | command (w : Word)
  /-- The platform asserts and releases reset while no command is in progress. -/
  | hardwareReset
  /-- The host issues a command word and the platform asserts reset before the command is complete. -/
  | resetDuring (w : Word)
  deriving DecidableEq, Repr

/-- The engine's architectural state (10_state.md R13), and after it the model's own fields: the configuration and the two
sides of the command port (log entries 1 and 2). -/
structure State where
  /-- S0, the bit state array; bit `i` is `A_lin[i]` (R14). -/
  A : Bits
  /-- S1, the permutation width b (R17). -/
  B : BitVec 11
  /-- S2, the lane length w (R17). -/
  W : BitVec 7
  /-- S3, l = log2 w (R17). -/
  L : BitVec 3
  /-- S4, the round count (R17). -/
  NR : BitVec 8
  /-- S5 (R18). -/
  mode : Mode
  /-- S6 (R23). -/
  phase : Phase
  /-- S7, RATE in bits (R19). -/
  rate : BitVec 11
  /-- S8, SFXLEN (R20). -/
  sfxLen : BitVec 3
  /-- S9, SFX, bit `i` the (i+1)-th bit appended (R20). -/
  sfx : BitVec 7
  /-- S10, OUTBITS, 0 for variable output (R21). -/
  outBits : BitVec 10
  /-- S11, PROFILE (R22). -/
  profile : BitVec 3
  /-- S12, MSG, the bytes in arrival order (R26). -/
  msg : List Byte
  /-- S13, SQOFF, bytes of the current output block already returned (R27). -/
  sqOff : BitVec 8
  /-- S14, ERRFLAGS, bit `k - 1` for error code `k` (R24). -/
  errFlags : BitVec 6
  /-- The model's own: the parameters of the engine, changed by nothing (DESIGN CHOICE, log entry 1). -/
  cfg : Config
  /-- The model's own: what the host and the platform will present, oldest first (DESIGN CHOICE, log entry 2). -/
  inputs : List HostInput
  /-- The model's own: the responses returned so far, oldest first (DESIGN CHOICE, log entry 2). -/
  responses : List Response
  deriving DecidableEq, Repr

/-- Reasons to stop with a fault. The engine has none: an error is a response and the engine is at once ready for the next
command (60_exceptions.md R163), and no internal access is out of range (R162). So nobody raises one; this is safe, since
there is no behaviour of the engine it leaves out (DEDUCED, log entry 5). -/
inductive Fault where
  deriving DecidableEq, Repr

/-- Reasons to refuse an instruction. -/
inductive Refusal where
  /-- The instruction has no meaning in this model. Raised by no arm of exec, since every command has its meaning; safe,
  since it stops. -/
  | notModelled (mnemonic : String)
  deriving DecidableEq, Repr

/-- The outcome of a command or of a step. -/
abbrev Result := Host.Outcome State Fault Refusal

/-- The state after hardware reset (10_state.md R32, 70_reset_and_hazards.md R180): no instance, A empty, every register
0, MSG empty, all sticky flags clear. The model's own fields: MSG_CAP unbounded (DESIGN CHOICE, log entry 1), no input and no response
yet (DESIGN CHOICE, log entry 2). -/
def State.reset : State where
  A := 0#1600
  B := 0#11
  W := 0#7
  L := 0#3
  NR := 0#8
  mode := .idle
  phase := .none
  rate := 0#11
  sfxLen := 0#3
  sfx := 0#7
  outBits := 0#10
  profile := 0#3
  msg := []
  sqOff := 0#8
  errFlags := 0#6
  cfg := ⟨none⟩
  inputs := []
  responses := []

end Sys2Proof.Machine
end

