-- ==== Sys2Proof/Machine/Flags.lean ====
section
/-! DEFINITION. The error codes and the sticky flags (60_exceptions.md R160, 10_state.md R24), the encodings of MODE and
PHASE (R18, R23) and the STATUS view (R29). The engine has no arithmetic condition codes (R25). -/

namespace Sys2Proof.Machine

/-- The 4-bit error code of a response (60_exceptions.md R160). -/
def errorCode : EngineError → BitVec 4
  | .invalidWidth => 1#4
  | .invalidRate => 2#4
  | .spongeMisuse => 3#4
  | .illegalCommand => 4#4
  | .boundsViolation => 5#4
  | .bufferOverflow => 6#4

/-- The position in ERRFLAGS of the flag of error code k, which is k - 1 (10_state.md R24). -/
def flagIndex (e : EngineError) : Nat := (errorCode e).toNat - 1

/-- ERRFLAGS with the sticky flag of `e` set, the others as they were (10_state.md R24). -/
def setFlag (e : EngineError) (flags : BitVec 6) : BitVec 6 := flags ||| BitVec.twoPow 6 (flagIndex e)

/-- MODE as the two bits software reads (10_state.md R18). -/
def modeCode : Mode → BitVec 2
  | .idle => 0#2
  | .perm => 1#2
  | .sponge => 2#2

/-- PHASE as the two bits software reads (10_state.md R23). -/
def phaseCode : Phase → BitVec 2
  | .none => 0#2
  | .absorbing => 1#2
  | .squeezing => 2#2

/-- STATUS, most significant field first: 31:24 reserved and 0, PROFILE, NR, L, ERRFLAGS, PHASE, MODE (10_state.md R29). -/
def statusWord (s : State) : Word :=
  0#8 ++ s.profile ++ s.NR ++ s.L ++ s.errFlags ++ phaseCode s.phase ++ modeCode s.mode

end Sys2Proof.Machine
end

