-- ==== Sys2Proof/Machine/Lanes.lean ====
section
/-! DEFINITION. The bit state array by coordinates, by lanes and by linear index (10_state.md R14, 20_memory.md R42). -/

namespace Sys2Proof.Machine

/-- "Linear index = w·(5y + x) + z" (20_memory.md R42). -/
def linearIndex (w x y z : Nat) : Nat := w * (5 * y + x) + z

/-- `A[x,y,z]` at lane length `w`. -/
def bitAt (w : Nat) (A : Bits) (x y z : Nat) : Bool := A.getLsbD (linearIndex w x y z)

/-- `A_lin[i] <- v`. -/
def setBit (A : Bits) (i : Nat) (v : Bool) : Bits :=
  if v then A ||| BitVec.twoPow 1600 i else A &&& ~~~ BitVec.twoPow 1600 i

/-- Lane number `n`: the `w` bits of A from `w n` on (10_state.md R14). -/
def laneNo (w : Nat) (A : Bits) (n : Nat) : BitVec w := (A >>> (w * n)).setWidth w

/-- `Lane(x, y)`, which is lane number 5y + x (10_state.md R14). -/
def lane (w : Nat) (A : Bits) (x y : Nat) : BitVec w := laneNo w A (5 * y + x)

/-- The array whose lanes are the list's, lane number 0 first; the bits above the last lane are 0. -/
def ofLanes (w : Nat) : List (BitVec w) → Bits
  | [] => 0#1600
  | v :: vs => (ofLanes w vs <<< w) ||| v.setWidth 1600

/-- The array with `Lane(x, y) = f x y` for x, y in 0..4. -/
def arrayOf (w : Nat) (f : Nat → Nat → BitVec w) : Bits :=
  ofLanes w ((List.range 25).map fun n => f (n % 5) (n / 5))

end Sys2Proof.Machine
end

