-- ==== Sys2Proof/Machine/Operands.lean ====
section
/-! DEFINITION. The checks a command passes before its effect (30_encoding.md R64): form (stage 2, R67), mode (stage 3,
R68), operands (stage 4, the value checks of each command's rule). Each answers the error to raise, or none. A command's
checks are joined by `Option.or`, which keeps the first error, as R64 and 60_exceptions.md R164 ask. -/

namespace Sys2Proof.Machine

/-- The error `e` unless the condition holds. -/
def errorUnless (ok : Bool) (e : EngineError) : Option EngineError := if ok then none else some e

/-! ### Stage 2: reserved field values a term of Instr can carry (DEDUCED, log entry 10)

The reserved p of SNEW is refused where its row of the profile table is looked up (Machine/Sponge.lean). -/

/-- SNEWC: no suffix bit at or above sfxlen (R67). -/
def suffixForm (sfxlen : BitVec 3) (sfx : BitVec 7) : Option EngineError :=
  errorUnless (WellFormed.suffixFits sfxlen sfx) .illegalCommand

/-- ABSORB: no data beyond cnt (R67). -/
def dataForm (cnt : BitVec 2) (d0 d1 d2 : Byte) : Option EngineError :=
  errorUnless (WellFormed.dataFits cnt d0 d1 d2) .illegalCommand

/-! ### Stage 3: mode legality, one function per row shape of the table of R68

The table has the columns Idle, Perm, Sponge with Absorbing, Sponge with Squeezing. A state outside them, Sponge mode with
PHASE None, is reached by no run; a command the table limits to Sponge mode is then outside its mode (DESIGN CHOICE, log entry 7). -/

/-- BGET, BSET, THETA, RHO, PI, CHI, IOTA, ROUND, PERMUTE: Perm mode only. -/
def permOnly (s : State) : Option EngineError :=
  match s.mode with
  | .perm => none
  | .idle => some .illegalCommand
  | .sponge => some .illegalCommand

/-- SQUEEZE: Sponge mode, either phase. -/
def spongeOnly (s : State) : Option EngineError :=
  match s.mode, s.phase with
  | .sponge, .absorbing => none
  | .sponge, .squeezing => none
  | .sponge, .none => some .illegalCommand
  | .idle, _ => some .illegalCommand
  | .perm, _ => some .illegalCommand

/-- ABSORB: Sponge mode in the Absorbing phase; in the Squeezing phase it is SpongeMisuse. -/
def absorbingOnly (s : State) : Option EngineError :=
  match s.mode, s.phase with
  | .sponge, .absorbing => none
  | .sponge, .squeezing => some .spongeMisuse
  | .sponge, .none => some .illegalCommand
  | .idle, _ => some .illegalCommand
  | .perm, _ => some .illegalCommand

/-- DIGEST: Sponge mode with OUTBITS ≠ 0. -/
def fixedOutputOnly (s : State) : Option EngineError :=
  if s.outBits = 0#10 then some .illegalCommand else spongeOnly s

/-! ### Stage 4: operand checks -/

/-- `valid_width(b)` (40_bitstate_config.md R81). -/
def validWidth (b : BitVec 11) : Bool := [25, 50, 100, 200, 400, 800, 1600].contains b.toNat

/-- FNEW, PNEW: InvalidWidth (R80, R82). -/
def widthCheck (b : BitVec 11) : Option EngineError := errorUnless (validWidth b) .invalidWidth

/-- `in_range(x, y, z)` for lane length `w`; nothing is reduced (40_bitstate_config.md R83). -/
def inRange (w : Nat) (x y : BitVec 3) (z : BitVec 7) : Bool :=
  decide (x.toNat < 5) && decide (y.toNat < 5) && decide (z.toNat < w)

/-- BGET, BSET: BoundsViolation (R84, R85). -/
def boundsCheck (s : State) (x y : BitVec 3) (z : BitVec 7) : Option EngineError :=
  errorUnless (inRange s.W.toNat x y z) .boundsViolation

/-- A legal rate: strictly between 0 and 1600 and a multiple of 8 (10_state.md R19, 42_sponge.md R125). -/
def validRate (rate : BitVec 11) : Bool :=
  decide (0 < rate.toNat) && decide (rate.toNat < 1600) && decide (rate.toNat % 8 = 0)

/-- SNEWC: InvalidRate (42_sponge.md R125). -/
def rateCheck (rate : BitVec 11) : Option EngineError := errorUnless (validRate rate) .invalidRate

/-- A message of `n` bytes fits MSG_CAP (10_state.md R26). -/
def fitsCap (cfg : Config) (n : Nat) : Bool :=
  match cfg.msgCap with
  | none => true
  | some cap => decide (n ≤ cap)

/-- ABSORB: BufferOverflow when MSGLEN + cnt > MSG_CAP (42_sponge.md R126). -/
def capacityCheck (s : State) (cnt : BitVec 2) : Option EngineError :=
  errorUnless (fitsCap s.cfg (s.msg.length + cnt.toNat)) .bufferOverflow

/-! ### Operand values -/

/-- The bytes of an ABSORB, d0 first: `[d0, d1, d2][0 .. cnt-1]` (42_sponge.md R126). -/
def absorbBytes (cnt : BitVec 2) (d0 d1 d2 : Byte) : List Byte := [d0, d1, d2].take cnt.toNat

/-- w = b/25 (40_bitstate_config.md R81). -/
def laneLength (b : BitVec 11) : Nat := b.toNat / 25

/-- l = log2(w) (40_bitstate_config.md R81). -/
def laneLog (b : BitVec 11) : Nat := Nat.log2 (laneLength b)

/-- "For Keccak-f, n_r is derived as 12 + 2l" (40_bitstate_config.md R80, 41_permutation.md R103). -/
def fRounds (b : BitVec 11) : BitVec 8 := BitVec.ofNat 8 (12 + 2 * laneLog b)

end Sys2Proof.Machine
end

