-- ==== Sys2Proof/Machine/Tables.lean ====
section
/-! DEFINITION. The constant tables: the rho offsets (41_permutation.md R90), the sequence rc and the round constants
(R91, R92), the profile table (42_sponge.md R120). The spec took the values of the first two from general knowledge of the
Keccak family (93_implementation_defined.md G2 to G5; UNVERIFIED, log entry 13). -/

namespace Sys2Proof.Machine

/-- The reduced offsets of R90, in lane-number order 5y + x. -/
def rotationOffsets : List Nat :=
  [ 0,  1, 62, 28, 27,
   36, 44,  6, 55, 20,
    3, 10, 43, 25, 39,
   41, 45, 15, 21,  8,
   18,  2, 61, 56, 14]

/-- `rotation_offset(x, y)`, in 0..63 (R90). -/
def rotationOffset (x y : Nat) : Nat := rotationOffsets.getD (5 * y + x) 0

/-- The lane the generating walk of R90 stands on at step `t`: from (1, 0) by (x, y) <- (y, (2x + 3y) mod 5). -/
def offsetWalk : Nat → Nat × Nat
  | 0 => (1, 0)
  | t + 1 => ((offsetWalk t).2, (2 * (offsetWalk t).1 + 3 * (offsetWalk t).2) % 5)

/-- The unreduced offset the walk gives at step `t` (R90). -/
def walkOffset (t : Nat) : Nat := (t + 1) * (t + 2) / 2

/-- One step of the shift register of R91 on (R[0], ..., R[7]), R[0] being bit 0: `[0] ++ R`, then the bit that fell out of
the far end is XORed into positions 0, 4, 5 and 6. -/
def lfsrStep (r : BitVec 8) : BitVec 8 :=
  if r.getLsbD 7 then (r <<< 1) ^^^ 0x71#8 else r <<< 1

/-- The register after `n` steps from [1,0,0,0,0,0,0,0] (R91). -/
def lfsr : Nat → BitVec 8
  | 0 => 1#8
  | n + 1 => lfsrStep (lfsr n)

/-- rc(t) by the algorithm of R91. -/
def rcByLfsr (t : Int) : Bool := (lfsr (t % 255).toNat).getLsbD 0

/-- rc(0..254) as R91 prints it, one line of 64 values a number; the first value of a line is its most significant bit. -/
def rcLines : List (BitVec 64) :=
  [0b1000000010110001111010000111111110010000101001111101010101110000#64,
   0b0110001010110011001011111101111001101110111001010100101000100101#64,
   0b1010001100111001111000110110000100010111010111101101111100001101#64,
   -- the last line has 63 values
   0b0011010110110101000001001110110010010011000000111010010001110000#64]

/-- rc(t): the table of R91 at `t mod 255` ("a model may use the tables or rule R91", R94; DEDUCED, log entry 12). -/
def rc (t : Int) : Bool :=
  let n := (t % 255).toNat
  (rcLines.getD (n / 64) 0#64).getMsbD (n % 64)

/-- `round_constant(ir, l)` as a value of `w` bits, `w` being 2^l: RC[2^j - 1] = rc(j + 7 ir) for j = 0..l, every other
bit 0 (R92). The index may be any integer. -/
def roundConstant (w l : Nat) (ir : Int) : BitVec w :=
  (List.range (l + 1)).foldl
    (fun acc (j : Nat) => if rc ((j : Int) + 7 * ir) then acc ||| BitVec.twoPow w (2 ^ j - 1) else acc) 0#w

/-- One row of the profile table (42_sponge.md R120), less its number. -/
structure ProfileRow where
  rate : BitVec 11
  sfxLen : BitVec 3
  sfx : BitVec 7
  outBits : BitVec 10
  deriving DecidableEq, Repr

/-- The profile table (R120); 6 and 7 are no profiles (30_encoding.md R67). -/
def profileRow (p : BitVec 3) : Option ProfileRow :=
  match p.toNat with
  | 0 => some ⟨1152#11, 2#3, 0b0000010#7, 224#10⟩
  | 1 => some ⟨1088#11, 2#3, 0b0000010#7, 256#10⟩
  | 2 => some ⟨832#11, 2#3, 0b0000010#7, 384#10⟩
  | 3 => some ⟨576#11, 2#3, 0b0000010#7, 512#10⟩
  | 4 => some ⟨1344#11, 4#3, 0b0001111#7, 0#10⟩
  | 5 => some ⟨1088#11, 4#3, 0b0001111#7, 0#10⟩
  | _ => none

end Sys2Proof.Machine
end

