-- ==== Sys2Proof/Machine/Ops.lean ====
section
/-! DEFINITION. The shared operations over the state: returning a response, raising an error, resetting, installing an
instance, the message buffer, taking the next input. -/

namespace Sys2Proof.Machine

/-! ### Responses and errors -/

/-- The response record is returned: it joins the responses, in command order (20_memory.md R51 (a)). -/
def State.reply (s : State) (r : Response) : State := { s with responses := s.responses ++ [r] }

/-- Success: err = 0, with the value word and the output bytes (30_encoding.md R69). -/
def okResponse (val : Word) (dout : List Byte) : Response := ⟨0#4, val, dout⟩

/-- The response of a command that raised `e`: err = k, val = 0, no bytes (60_exceptions.md R163). -/
def errorResponse (e : EngineError) : Response := ⟨errorCode e, 0#32, []⟩

/-- A command that succeeded, having left the state `s`. -/
def respond (val : Word) (dout : List Byte) (s : State) : Result := .next (s.reply (okResponse val dout))

/-- The sticky flag of `e` is set (10_state.md R24). -/
def State.withFlag (s : State) (e : EngineError) : State := { s with errFlags := setFlag e s.errFlags }

/-- Error delivery, the engine's whole exception mechanism (60_exceptions.md R163): nothing changes but the sticky flag of
`e`, the response says so, and the engine is ready for the next command. Nothing is saved and control goes nowhere, so there
is no return from it either (R165). -/
def raise (e : EngineError) (s : State) : Result := .next ((s.withFlag e).reply (errorResponse e))

/-! ### Reset and construction -/

/-- Every element of the engine's state takes its reset value (10_state.md R32, 43_system.md R150). What is not the engine's
state stays: the configuration, the pending inputs, the responses already returned (DESIGN CHOICE, log entry 16). -/
def State.powerOn (s : State) : State :=
  { State.reset with cfg := s.cfg, inputs := s.inputs, responses := s.responses }

/-- A Perm instance of width `b` with `nr` rounds (40_bitstate_config.md R80, R82; 10_state.md R33): the array is zero and
every sponge register is 0. -/
def State.installPerm (s : State) (b : BitVec 11) (nr : BitVec 8) : State :=
  { s with
    A := 0#1600
    B := b
    W := BitVec.ofNat 7 (laneLength b)
    L := BitVec.ofNat 3 (laneLog b)
    NR := nr
    mode := .perm
    phase := .none
    rate := 0#11
    sfxLen := 0#3
    sfx := 0#7
    outBits := 0#10
    profile := 0#3
    msg := []
    sqOff := 0#8 }

/-- A Sponge instance (42_sponge.md R124, R125; 10_state.md R33) with the rate, suffix and output length of `row`. -/
def State.installSponge (s : State) (row : ProfileRow) (profile : BitVec 3) : State :=
  { s with
    A := 0#1600
    B := 1600#11
    W := 64#7
    L := 6#3
    NR := 24#8
    mode := .sponge
    phase := .absorbing
    rate := row.rate
    sfxLen := row.sfxLen
    sfx := row.sfx
    outBits := row.outBits
    profile := profile
    msg := []
    sqOff := 0#8 }

/-! ### The bit state array -/

/-- `A[x,y,z]` of the instance (20_memory.md R42). -/
def State.bit (s : State) (x y z : Nat) : Bool := bitAt s.W.toNat s.A x y z

/-- `A <- V`. -/
def State.withArray (s : State) (A : Bits) : State := { s with A := A }

/-- `A[x,y,z] <- v` (40_bitstate_config.md R85). -/
def State.writeBit (s : State) (x y z : Nat) (v : Bool) : State :=
  s.withArray (setBit s.A (linearIndex s.W.toNat x y z) v)

/-! ### The message buffer (20_memory.md R40 (2))

The engine's only byte store. Its addresses are the byte indices 0..MSGLEN-1, it is written by appending only and read by
finalization only, so a list of bytes is its one form: equal buffers are equal lists (DESIGN CHOICE, log entry 20). -/

/-- The form of the message buffer: "MSGLEN ≤ MSG_CAP always" (10_state.md R26). -/
def Memory.wf (cfg : Config) (msg : List Byte) : Bool := fitsCap cfg msg.length

/-- `MemRead(addr, 1)` (00_scope.md R10): the byte at an index, none beyond the end. -/
def Memory.read (msg : List Byte) (addr : Nat) : Option Byte := msg[addr]?

/-- `MemWrite(MSGLEN, n, v)`: appending, the only write there is (00_scope.md R10, 42_sponge.md R126). -/
def State.append (s : State) (v : List Byte) : State := { s with msg := s.msg ++ v }

/-! ### The command port -/

/-- The oldest input is taken; the rest wait. -/
def State.takeInput (s : State) (rest : List HostInput) : State := { s with inputs := rest }

/-- The host puts a command word where the engine takes its next input. -/
def State.offer (s : State) (w : Word) : State := { s with inputs := .command w :: s.inputs }

end Sys2Proof.Machine
end

