-- ==== Sys2Proof/Machine/BitState.lean ====
section
/-! DEFINITION. Construction of a permutation instance and bit access: FNEW, PNEW, BGET, BSET (40_bitstate_config.md). -/

namespace Sys2Proof.Machine

/-- FNEW b: a Keccak-f[b] instance, its round count derived from b (R80). -/
def execFnew (b : BitVec 11) (s : State) : Result :=
  match widthCheck b with
  | some e => raise e s
  | none => respond 0#32 [] (s.installPerm b (fRounds b))

/-- PNEW b, nr: a Keccak-p[b, nr] instance; there is no check on nr (R82). -/
def execPnew (b : BitVec 11) (nr : BitVec 8) (s : State) : Result :=
  match widthCheck b with
  | some e => raise e s
  | none => respond 0#32 [] (s.installPerm b nr)

/-- BGET x, y, z: one bit is read, into val[0] (R84, 30_encoding.md R69). -/
def execBget (x y : BitVec 3) (z : BitVec 7) (s : State) : Result :=
  match (permOnly s).or (boundsCheck s x y z) with
  | some e => raise e s
  | none => respond ((BitVec.ofBool (s.bit x.toNat y.toNat z.toNat)).setWidth 32) [] s

/-- BSET x, y, z, v: one bit is written (R85). -/
def execBset (x y : BitVec 3) (z : BitVec 7) (v : Bool) (s : State) : Result :=
  match (permOnly s).or (boundsCheck s x y z) with
  | some e => raise e s
  | none => respond 0#32 [] (s.writeBit x.toNat y.toNat z.toNat v)

end Sys2Proof.Machine
end

