-- ==== Sys2Proof/Machine/SubSteps.lean ====
section
/-! DEFINITION. The five sub-steps in the lane form of 41_permutation.md R106, the round (R100) and the permutation
(R104). Each sub-step is a function of the whole old array (70_reset_and_hazards.md R186). The bit rules R95 to R99 are the
spec's definition; that these are the same functions is stated bit by bit in the obligations. -/

namespace Sys2Proof.Machine

/-- The column parity `C[x]` (R95, R106). -/
def thetaC (w : Nat) (A : Bits) (x : Nat) : BitVec w :=
  lane w A x 0 ^^^ lane w A x 1 ^^^ lane w A x 2 ^^^ lane w A x 3 ^^^ lane w A x 4

/-- `D[x] = C[(x-1) mod 5] ^ rotl(C[(x+1) mod 5], 1)` (R106). -/
def thetaD (w : Nat) (A : Bits) (x : Nat) : BitVec w :=
  thetaC w A ((x + 4) % 5) ^^^ (thetaC w A ((x + 1) % 5)).rotateLeft 1

/-- theta (R95, R106). -/
def theta (w : Nat) (A : Bits) : Bits :=
  arrayOf w fun x y => lane w A x y ^^^ thetaD w A x

/-- rho: bit z of a lane moves to (z + rotation_offset(x, y)) mod w (R96, R106). -/
def rho (w : Nat) (A : Bits) : Bits :=
  arrayOf w fun x y => (lane w A x y).rotateLeft (rotationOffset x y)

/-- pi: the new lane (x, y) is the old lane ((x + 3y) mod 5, x) (R97, R106). -/
def pi (w : Nat) (A : Bits) : Bits :=
  arrayOf w fun x y => lane w A ((x + 3 * y) % 5) x

/-- chi (R98, R106). -/
def chi (w : Nat) (A : Bits) : Bits :=
  arrayOf w fun x y =>
    lane w A x y ^^^ (~~~ lane w A ((x + 1) % 5) y &&& lane w A ((x + 2) % 5) y)

/-- iota: the round constant is XORed into lane (0, 0), which is the low `w` bits (R99). -/
def iota (w l : Nat) (ir : Int) (A : Bits) : Bits :=
  A ^^^ (roundConstant w l ir).setWidth 1600

/-- `Rnd(A, ir) = iota(chi(pi(rho(theta(A)))), ir)` (R100). -/
def rnd (w l : Nat) (ir : Int) (A : Bits) : Bits :=
  iota w l ir (chi w (pi w (rho w (theta w A))))

/-- `n` rounds with the ascending indices ir, ir + 1, ... (R104). -/
def rounds (w l : Nat) : Nat → Int → Bits → Bits
  | 0, _, A => A
  | n + 1, ir, A => rounds w l n (ir + 1) (rnd w l ir A)

/-- The first round index, 12 + 2l - n_r (R102; the base for Keccak-p is the spec's decision D8, UNVERIFIED, log entry 8). -/
def firstRound (l nr : Nat) : Int := 12 + 2 * (l : Int) - (nr : Int)

/-- Keccak-p[b, n_r] with b = 25w (R104). -/
def keccakP (w l nr : Nat) (A : Bits) : Bits := rounds w l nr (firstRound l nr) A

/-- "In Sponge mode f is always Keccak-f[1600] = Keccak-p[1600, 24]" (R104; DEDUCED, log entry 11). -/
def keccakF1600 (A : Bits) : Bits := keccakP 64 6 24 A

end Sys2Proof.Machine
end

