-- ==== Sys2Proof/Machine/Permutation.lean ====
section
/-! DEFINITION. The permutation commands (41_permutation.md section 5): legal in Perm mode only, no operand check, each
changes A only. -/

namespace Sys2Proof.Machine

/-- The shape the seven share: outside Perm mode IllegalCommand, else `A <- g(A)` with the instance's registers. -/
def permuteBy (A' : State → Bits) (s : State) : Result :=
  match permOnly s with
  | some e => raise e s
  | none => respond 0#32 [] (s.withArray (A' s))

/-- THETA (R107). -/
def execTheta (s : State) : Result := permuteBy (fun s => theta s.W.toNat s.A) s

/-- RHO (R108). -/
def execRho (s : State) : Result := permuteBy (fun s => rho s.W.toNat s.A) s

/-- PI (R109). -/
def execPi (s : State) : Result := permuteBy (fun s => pi s.W.toNat s.A) s

/-- CHI (R110). -/
def execChi (s : State) : Result := permuteBy (fun s => chi s.W.toNat s.A) s

/-- IOTA ir: every ir is legal and none is checked against NR (R111). -/
def execIota (ir : BitVec 8) (s : State) : Result :=
  permuteBy (fun s => iota s.W.toNat s.L.toNat ir.toNat s.A) s

/-- ROUND ir (R112). -/
def execRound (ir : BitVec 8) (s : State) : Result :=
  permuteBy (fun s => rnd s.W.toNat s.L.toNat ir.toNat s.A) s

/-- PERMUTE: all NR rounds as one command (R113, R104). -/
def execPermute (s : State) : Result :=
  permuteBy (fun s => keccakP s.W.toNat s.L.toNat s.NR.toNat s.A) s

end Sys2Proof.Machine
end

