-- ==== Sys2Proof/Machine/SpongeOps.lean ====
section
/-! DEFINITION. Padding, finalization and output of the sponge (42_sponge.md R122, R123, R127 to R129, R131, R132). -/

namespace Sys2Proof.Machine

/-! ### Bits of messages and the padding -/

/-- A byte as its eight bits, the least significant first (20_memory.md R41). -/
def byteBits (v : Byte) : List Bool := (List.range 8).map v.getLsbD

/-- `M = bits(MSG)` (42_sponge.md R122). -/
def messageBits (msg : List Byte) : List Bool := msg.flatMap byteBits

/-- `S = SFX[0] || ... || SFX[SFXLEN-1]` (10_state.md R20). -/
def suffixBits (sfxLen : BitVec 3) (sfx : BitVec 7) : List Bool := (List.range sfxLen.toNat).map sfx.getLsbD

/-- The number of zero bits `j = (-m - 2) mod r` (42_sponge.md R123). -/
def padZeros (r m : Nat) : Nat := ((-(m : Int) - 2) % (r : Int)).toNat

/-- `pad(r, m) = 1 || 0^j || 1` (42_sponge.md R123). -/
def pad (r m : Nat) : List Bool := true :: (List.replicate (padZeros r m) false ++ [true])

/-- Message and suffix, which the padding follows (42_sponge.md R127). -/
def suffixedMessage (sfxLen : BitVec 3) (sfx : BitVec 7) (msg : List Byte) : List Bool :=
  messageBits msg ++ suffixBits sfxLen sfx

/-- `P = M || S || pad(RATE, |M| + |S|)` (42_sponge.md R127). -/
def paddedMessage (rate : Nat) (sfxLen : BitVec 3) (sfx : BitVec 7) (msg : List Byte) : List Bool :=
  suffixedMessage sfxLen sfx msg ++ pad rate (suffixedMessage sfxLen sfx msg).length

/-! ### Absorbing blocks -/

/-- The array whose linear index `i` holds the `i`-th bit of the string, 0 beyond its end. -/
def bitsOf : List Bool → Bits
  | [] => 0#1600
  | v :: vs => (bitsOf vs <<< 1) ||| (BitVec.ofBool v).setWidth 1600

/-- One block: XORed into the first bits of the array, then the permutation (42_sponge.md R129). -/
def absorbBlock (A : Bits) (block : List Bool) : Bits := keccakF1600 (A ^^^ bitsOf block)

/-- `n` blocks of `rate` bits, in arrival order (42_sponge.md R128). -/
def absorbBlocks (rate : Nat) : Nat → List Bool → Bits → Bits
  | 0, _, A => A
  | n + 1, P, A => absorbBlocks rate n (P.drop rate) (absorbBlock A (P.take rate))

/-- The array after finalization of the message in `s` (42_sponge.md R128). -/
def finalArray (s : State) : Bits :=
  let P := paddedMessage s.rate.toNat s.sfxLen s.sfx s.msg
  absorbBlocks s.rate.toNat (P.length / s.rate.toNat) P s.A

/-- finalize(): the blocks are absorbed, the phase becomes Squeezing, SQOFF 0, MSG empty (42_sponge.md R128). -/
def State.finalize (s : State) : State :=
  { s with A := finalArray s, phase := .squeezing, sqOff := 0#8, msg := [] }

/-- The state of an implementation that has absorbed the first `n` complete blocks of the message already and keeps only the
rest of it (20_memory.md R53). No command of the machine does this; statements compare it with the deferred definition. -/
def State.absorbedEarly (s : State) (n : Nat) : State :=
  { s with
    A := absorbBlocks s.rate.toNat n (messageBits s.msg) s.A
    msg := s.msg.drop (n * (s.rate.toNat / 8)) }

/-! ### Output -/

/-- Where the next output byte comes from: the array and SQOFF. -/
structure SqueezePos where
  A : Bits
  off : BitVec 8
  deriving DecidableEq, Repr

/-- `out_byte(A, o)`: bits 8o to 8o + 7 of the array, the first the least significant (42_sponge.md R132). -/
def outByte (A : Bits) (o : Nat) : Byte := (A >>> (8 * o)).setWidth 8

/-- A block that is used up is followed by the permuted array, but only when a further byte is needed (42_sponge.md R132). -/
def nextBlock (rate : Nat) (p : SqueezePos) : SqueezePos :=
  if p.off.toNat = rate / 8 then ⟨keccakF1600 p.A, 0#8⟩ else p

/-- One byte has been emitted: SQOFF <- SQOFF + 1. -/
def SqueezePos.advance (p : SqueezePos) : SqueezePos := ⟨p.A, p.off + 1#8⟩

/-- The loop of SQUEEZE n (42_sponge.md R131): the bytes emitted, in order, and where it ends. -/
def squeezeLoop (rate : Nat) : Nat → SqueezePos → List Byte × SqueezePos
  | 0, p => ([], p)
  | n + 1, p =>
    let q := nextBlock rate p
    let r := squeezeLoop rate n q.advance
    (outByte q.A q.off.toNat :: r.1, r.2)

/-- The array and SQOFF take the values where the squeeze loop ended. -/
def State.withPos (s : State) (p : SqueezePos) : State := { s with A := p.A, sqOff := p.off }

/-- "if PHASE = Absorbing: finalize()" (42_sponge.md R131). -/
def State.beginSqueeze (s : State) : State :=
  match s.phase with
  | .absorbing => s.finalize
  | .squeezing => s
  | .none => s

/-- The effect of SQUEEZE n, and of DIGEST with n = OUTBITS/8 (42_sponge.md R131, R136). -/
def squeezeEffect (n : Nat) (s : State) : Result :=
  let s1 := s.beginSqueeze
  let r := squeezeLoop s1.rate.toNat n ⟨s1.A, s1.sqOff⟩
  respond 0#32 r.1 (s1.withPos r.2)

end Sys2Proof.Machine
end

