-- ==== Sys2Proof/Machine/Sponge.lean ====
section
/-! DEFINITION. The sponge commands SNEW, SNEWC, ABSORB, SQUEEZE, DIGEST (42_sponge.md). -/

namespace Sys2Proof.Machine

/-- SNEW p: a sponge of a canonical profile; p = 6 and 7 are IllegalCommand (R124, 30_encoding.md R67). -/
def execSnew (p : BitVec 3) (s : State) : Result :=
  match profileRow p with
  | none => raise .illegalCommand s
  | some row => respond 0#32 [] (s.installSponge row p)

/-- SNEWC rate, suffix: a custom sponge, OUTBITS 0 and PROFILE 7 (R125). -/
def execSnewc (rate : BitVec 11) (sfxlen : BitVec 3) (sfx : BitVec 7) (s : State) : Result :=
  match (suffixForm sfxlen sfx).or (rateCheck rate) with
  | some e => raise e s
  | none => respond 0#32 [] (s.installSponge ⟨rate, sfxlen, sfx, 0#10⟩ 7#3)

/-- ABSORB: the first cnt bytes are appended to the message, all or none (R126). -/
def execAbsorb (cnt : BitVec 2) (d0 d1 d2 : Byte) (s : State) : Result :=
  match ((dataForm cnt d0 d1 d2).or (absorbingOnly s)).or (capacityCheck s cnt) with
  | some e => raise e s
  | none => respond 0#32 [] (s.append (absorbBytes cnt d0 d1 d2))

/-- SQUEEZE n: the next n output bytes (R131). -/
def execSqueeze (n : BitVec 16) (s : State) : Result :=
  match spongeOnly s with
  | some e => raise e s
  | none => squeezeEffect n.toNat s

/-- DIGEST: exactly SQUEEZE (OUTBITS/8), on a sponge of fixed output length only (R136). -/
def execDigest (s : State) : Result :=
  match fixedOutputOnly s with
  | some e => raise e s
  | none => squeezeEffect (s.outBits.toNat / 8) s

end Sys2Proof.Machine
end

