-- ==== Sys2Proof/Machine/System.lean ====
section
/-! DEFINITION. The system commands RESET and RDSTAT (43_system.md). Both are legal in every mode and phase. -/

namespace Sys2Proof.Machine

/-- RESET: every element of state takes its reset value (R150). -/
def execReset (s : State) : Result := respond 0#32 [] s.powerOn

/-- RDSTAT: the STATUS view is returned; nothing changes, the sticky flags included (R151). -/
def execRdstat (s : State) : Result := respond (statusWord s) [] s

end Sys2Proof.Machine
end

