-- ==== Sys2Proof/Machine/Dispatch.lean ====
section
/-! DEFINITION. One arm per command, each one direct call of its meaning. -/

namespace Sys2Proof.Machine

/-- The effect of one command that has passed decode (30_encoding.md R64). -/
def exec (i : Instr) (s : State) : Host.Outcome State Fault Refusal :=
  match i with
  | .reset => Sys2Proof.Machine.execReset s
  | .rdstat => Sys2Proof.Machine.execRdstat s
  | .fnew b => Sys2Proof.Machine.execFnew b s
  | .pnew b nr => Sys2Proof.Machine.execPnew b nr s
  | .bget x y z => Sys2Proof.Machine.execBget x y z s
  | .bset x y z v => Sys2Proof.Machine.execBset x y z v s
  | .theta => Sys2Proof.Machine.execTheta s
  | .rho => Sys2Proof.Machine.execRho s
  | .pi => Sys2Proof.Machine.execPi s
  | .chi => Sys2Proof.Machine.execChi s
  | .iota ir => Sys2Proof.Machine.execIota ir s
  | .round ir => Sys2Proof.Machine.execRound ir s
  | .permute => Sys2Proof.Machine.execPermute s
  | .snew p => Sys2Proof.Machine.execSnew p s
  | .snewc rate sfxlen sfx => Sys2Proof.Machine.execSnewc rate sfxlen sfx s
  | .absorb cnt d0 d1 d2 => Sys2Proof.Machine.execAbsorb cnt d0 d1 d2 s
  | .squeeze n => Sys2Proof.Machine.execSqueeze n s
  | .digest => Sys2Proof.Machine.execDigest s

end Sys2Proof.Machine
end

