-- ==== Sys2Proof/Machine/Step.lean ====
section
/-! DEFINITION. One step: the engine takes the oldest input, whole (20_memory.md R50). -/

namespace Sys2Proof.Machine

/-- One step of the engine. With nothing pending it waits (60_exceptions.md R174). A word that fails decode stage 1 or 2
raises IllegalCommand (30_encoding.md R64). Hardware reset leaves the reset state and returns no response, whether or not a
command was in progress (70_reset_and_hazards.md R180). -/
def step (s : State) : Host.Outcome State Fault Refusal :=
  match s.inputs with
  | [] => .next s
  | .command w :: rest =>
    match decode w with
    | .ok i => exec i (s.takeInput rest)
    | .error _ => raise .illegalCommand (s.takeInput rest)
  | .hardwareReset :: rest => .next (s.takeInput rest).powerOn
  | .resetDuring _ :: rest => .next (s.takeInput rest).powerOn

/-- `s` with the command word given as a number, bit 0 the least significant, as the engine's next input. -/
def State.withFetchWord (s : State) (nbits w : Nat) : State := s.offer (BitVec.ofNat 32 (w % 2 ^ nbits))

end Sys2Proof.Machine
end

