-- ==== Sys2Proof/Machine/BitRules.lean ====
section
/-! DEFINITION. The bit rules R95 to R99 of 41_permutation.md as the spec writes them, on an array given by its bits
`A[x,y,z]`, the inverses R105 gives, and the bits of the padded message (42_sponge.md R127). The machine runs the lane form (Machine/SubSteps.lean); the obligations state that
the two agree. -/

namespace Sys2Proof.Machine

/-- `(a - k) mod n`, with a residue in 0..n-1 also where `a < k` (00_scope.md R8). -/
def modSub (a k n : Nat) : Nat := (((a : Int) - (k : Int)) % (n : Int)).toNat

/-- `C[x,z] = XOR over y of A[x,y,z]` (R95). -/
def parityRule (A : Nat → Nat → Nat → Bool) (x z : Nat) : Bool :=
  A x 0 z ^^ A x 1 z ^^ A x 2 z ^^ A x 3 z ^^ A x 4 z

/-- `D[x,z] = C[(x-1) mod 5, z] ^ C[(x+1) mod 5, (z-1) mod W]` (R95). -/
def diffusionRule (w : Nat) (A : Nat → Nat → Nat → Bool) (x z : Nat) : Bool :=
  parityRule A (modSub x 1 5) z ^^ parityRule A ((x + 1) % 5) (modSub z 1 w)

/-- theta: `A'[x,y,z] = A[x,y,z] ^ D[x,z]` (R95). -/
def thetaRule (w : Nat) (A : Nat → Nat → Nat → Bool) (x y z : Nat) : Bool := A x y z ^^ diffusionRule w A x z

/-- rho: `A'[x,y,z] = A[x,y,(z - rotation_offset(x,y)) mod W]` (R96). -/
def rhoRule (w : Nat) (A : Nat → Nat → Nat → Bool) (x y z : Nat) : Bool := A x y (modSub z (rotationOffset x y) w)

/-- pi: `A'[x,y,z] = A[(x + 3y) mod 5, x, z]` (R97). -/
def piRule (A : Nat → Nat → Nat → Bool) (x y z : Nat) : Bool := A ((x + 3 * y) % 5) x z

/-- chi: `A'[x,y,z] = A[x,y,z] ^ ((A[(x+1) mod 5,y,z] ^ 1) & A[(x+2) mod 5,y,z])` (R98). -/
def chiRule (A : Nat → Nat → Nat → Bool) (x y z : Nat) : Bool :=
  A x y z ^^ ((A ((x + 1) % 5) y z ^^ true) && A ((x + 2) % 5) y z)

/-- `RC[z]`: 0 except at the positions `2^j - 1` for j = 0..l, where it is rc(j + 7 ir), by the algorithm of R91 (R92). -/
def roundConstantRule (l : Nat) (ir : Int) (z : Nat) : Bool :=
  (List.range (l + 1)).any fun (j : Nat) => z == 2 ^ j - 1 && rcByLfsr ((j : Int) + 7 * ir)

/-- iota: lane (0, 0) is XORed with RC, every other bit stays (R99). -/
def iotaRule (l : Nat) (ir : Int) (A : Nat → Nat → Nat → Bool) (x y z : Nat) : Bool :=
  if x = 0 ∧ y = 0 then A 0 0 z ^^ roundConstantRule l ir z else A x y z

/-- One round: iota(chi(pi(rho(theta(A)))), ir) (R100). -/
def roundRule (w l : Nat) (ir : Int) (A : Nat → Nat → Nat → Bool) : Nat → Nat → Nat → Bool :=
  iotaRule l ir (chiRule (piRule (rhoRule w (thetaRule w A))))

/-- `n` rounds with the ascending indices ir, ir + 1, ... (R104). -/
def roundsRule (w l : Nat) : Nat → Int → (Nat → Nat → Nat → Bool) → Nat → Nat → Nat → Bool
  | 0, _, A => A
  | n + 1, ir, A => roundsRule w l n (ir + 1) (roundRule w l ir A)

/-- The map chi makes on the five bits of a row, `v = sum of A[x,y,z] 2^x` (the table of R98). -/
def chiRow : List Nat :=
  [ 0,  9, 18, 11,  5, 12, 22, 15, 10,  3, 24,  1, 13,  4, 30,  7,
   20, 21,  6, 23, 17, 16,  2, 19, 26, 27,  8, 25, 29, 28, 14, 31]

/-- The value of the row at `y`, `z`: the sum of `A[x,y,z] 2^x` (R98). -/
def rowValue (A : Nat → Nat → Nat → Bool) (y z : Nat) : Nat :=
  (A 0 y z).toNat + 2 * (A 1 y z).toNat + 4 * (A 2 y z).toNat + 8 * (A 3 y z).toNat + 16 * (A 4 y z).toNat

/-- rho⁻¹: `A'[x,y,z] = A[x,y,(z + rotation_offset(x,y)) mod W]` (R105), in lane form. -/
def rhoInverse (w : Nat) (A : Bits) : Bits :=
  arrayOf w fun x y => (lane w A x y).rotateRight (rotationOffset x y)

/-- pi⁻¹: `A'[x,y,z] = A[y,(2x + 3y) mod 5,z]` (R105), in lane form. -/
def piInverse (w : Nat) (A : Bits) : Bits :=
  arrayOf w fun x y => lane w A y ((2 * x + 3 * y) % 5)

/-- Bit `i` of the padded message `P = M || S || 1 || 0^j || 1` (42_sponge.md R122, R127): the message bits, the suffix
bits, the first padding 1 right after them, the last padding 1 at the end of the last of
`nblk = ((8 MSGLEN + SFXLEN + 1) div RATE) + 1` blocks, and 0 between. -/
def paddedBitRule (rate : Nat) (sfxLen : BitVec 3) (sfx : BitVec 7) (msg : List Byte) (i : Nat) : Bool :=
  if i < 8 * msg.length then (msg.getD (i / 8) 0#8).getLsbD (i % 8)
  else if i < 8 * msg.length + sfxLen.toNat then sfx.getLsbD (i - 8 * msg.length)
  else decide (i = 8 * msg.length + sfxLen.toNat) ||
    decide (i + 1 = ((8 * msg.length + sfxLen.toNat + 1) / rate + 1) * rate)

end Sys2Proof.Machine
end

