-- ==== Sys2Proof/Machine/Chip.lean ====
section
/-! DEFINITION. A chip of N_INST engines (00_scope.md R7, 20_memory.md R56, 60_exceptions.md R172): independent copies of the
machine, each with its own command port and its own state, sharing nothing (DEDUCED, log entry 15). -/

namespace Sys2Proof.Machine

/-- The engines of a chip; N_INST is the length of the list. -/
structure Chip where
  engines : List State
  deriving DecidableEq, Repr

/-- A chip of `n + 1` engines after hardware reset: N_INST is at least 1 (R7). -/
def Chip.reset (n : Nat) : Chip := ⟨List.replicate (n + 1) State.reset⟩

/-- Engine number `k` makes one step, the others none; where there is no such engine, nothing happens. -/
def Chip.step (k : Nat) (c : Chip) : Host.Outcome Chip Fault Refusal :=
  match c.engines[k]? with
  | none => .next c
  | some s =>
    match Sys2Proof.Machine.step s with
    | .next t => .next ⟨c.engines.set k t⟩
    | .fault r => .fault r
    | .refused r => .refused r

end Sys2Proof.Machine
end

