-- ==== Sys2Proof/Machine/Pseudo.lean ====
section
/-! DEFINITION. The assembler's view of the commands (30_encoding.md R70), the pseudo-commands and their expansions (R71),
and the one-shot hash as a function (42_sponge.md R135). None of this is state or a command of its own. -/

namespace Sys2Proof.Machine

/-! ### Assembler operands (R70) -/

/-- The register value of a suffix written as a bit string in appending order: its first bit is bit 0 (10_state.md R20). -/
def suffixValue : List Bool → BitVec 7
  | [] => 0#7
  | v :: vs => (suffixValue vs <<< 1) ||| (BitVec.ofBool v).setWidth 7

/-- `SNEWC rate, "bits"` (R70). -/
def asmSnewc (rate : BitVec 11) (bits : List Bool) : Instr :=
  .snewc rate (BitVec.ofNat 3 bits.length) (suffixValue bits)

/-- `ABSORB` followed by 0 to 3 byte values in appending order (R70). -/
def asmAbsorb (bytes : List Byte) : Instr :=
  .absorb (BitVec.ofNat 2 bytes.length) (bytes.getD 0 0#8) (bytes.getD 1 0#8) (bytes.getD 2 0#8)

/-- A suffix written as a bit string in appending order, in double quotes. -/
def asmBits (sfxlen : BitVec 3) (sfx : BitVec 7) : String :=
  "\"" ++ String.ofList ((suffixBits sfxlen sfx).map fun v => if v then '1' else '0') ++ "\""

/-- The operands of a line: separated by commas, after one space. -/
def asmOperands : List String → String
  | [] => ""
  | v :: vs => " " ++ ", ".intercalate (v :: vs)

/-- One command as a line of assembler: the mnemonic and its operands in the order of R70, numbers in decimal. -/
def asmLine : Instr → String
  | .reset => "RESET"
  | .rdstat => "RDSTAT"
  | .fnew b => "FNEW" ++ asmOperands [toString b.toNat]
  | .pnew b nr => "PNEW" ++ asmOperands [toString b.toNat, toString nr.toNat]
  | .bget x y z => "BGET" ++ asmOperands [toString x.toNat, toString y.toNat, toString z.toNat]
  | .bset x y z v =>
    "BSET" ++ asmOperands [toString x.toNat, toString y.toNat, toString z.toNat, toString v.toNat]
  | .theta => "THETA"
  | .rho => "RHO"
  | .pi => "PI"
  | .chi => "CHI"
  | .iota ir => "IOTA" ++ asmOperands [toString ir.toNat]
  | .round ir => "ROUND" ++ asmOperands [toString ir.toNat]
  | .permute => "PERMUTE"
  | .snew p => "SNEW" ++ asmOperands [toString p.toNat]
  | .snewc rate sfxlen sfx => "SNEWC" ++ asmOperands [toString rate.toNat, asmBits sfxlen sfx]
  | .absorb cnt d0 d1 d2 => "ABSORB" ++ asmOperands (([d0, d1, d2].take cnt.toNat).map fun d => toString d.toNat)
  | .squeeze n => "SQUEEZE" ++ asmOperands [toString n.toNat]
  | .digest => "DIGEST"

/-! ### Pseudo-commands (R71) -/

/-- `FINALIZE` = `SQUEEZE 0`. -/
def pseudoFinalize : List Instr := [.squeeze 0#16]

/-- The bytes three at a time, in order, the last command with what is left. -/
def absorbChunks : List Byte → List Instr
  | [] => []
  | [a] => [asmAbsorb [a]]
  | [a, b] => [asmAbsorb [a, b]]
  | a :: b :: c :: rest => asmAbsorb [a, b, c] :: absorbChunks rest

/-- `ABSORBS b_0, ..., b_{k-1}`: for k = 0 the single command ABSORB with cnt = 0. -/
def pseudoAbsorbs : List Byte → List Instr
  | [] => [asmAbsorb []]
  | a :: rest => absorbChunks (a :: rest)

/-- `HASH p, b_0, ...` for a fixed-output profile. -/
def pseudoHash (p : BitVec 3) (bytes : List Byte) : List Instr := .snew p :: (pseudoAbsorbs bytes ++ [.digest])

/-- `XOF p, len, b_0, ...` for a variable-output profile. -/
def pseudoXof (p : BitVec 3) (len : BitVec 16) (bytes : List Byte) : List Instr :=
  .snew p :: (pseudoAbsorbs bytes ++ [.squeeze len])

/-- The host issues commands, one after the other, behind what it has issued already. -/
def State.issue (s : State) (cmds : List Instr) : State :=
  { s with inputs := s.inputs ++ cmds.map fun i => .command (encode i) }

/-! ### The one-shot hash as a function -/

/-- The sponge function: `d` bytes of the squeeze stream of the sponge of the given rate and suffix, applied to `msg`
(42_sponge.md R135). -/
def spongeFunction (rate : Nat) (sfxLen : BitVec 3) (sfx : BitVec 7) (msg : List Byte) (d : Nat) : List Byte :=
  let P := paddedMessage rate sfxLen sfx msg
  (squeezeLoop rate d ⟨absorbBlocks rate (P.length / rate) P 0#1600, 0#8⟩).1

end Sys2Proof.Machine
end

