-- ==== Sys2Proof/Safety.lean ====
section
/-! DEFINITION. What counts as a safe state, in the terms the statements use: the invariant of the engine (10_state.md R15,
R17, R19 to R23, R26 to R28; 93_implementation_defined.md X5) and "no error was ever raised" (R24). -/

namespace Sys2Proof.Machine

/-- A width: one of the seven candidates (00_scope.md R6). -/
abbrev CandidateWidth (b : Nat) : Prop := b ∈ [25, 50, 100, 200, 400, 800, 1600]

/-- The array has no bit at or above the width: its length is B (10_state.md R14). -/
abbrev ArrayFits (b : Nat) (A : Bits) : Prop := A.toNat < 2 ^ b

/-- RATE, SFXLEN, SFX, OUTBITS, PROFILE, SQOFF are 0 and MSG is empty, as outside Sponge mode (10_state.md R19, R26, R27). -/
abbrev SpongeRegistersClear (s : State) : Prop :=
  s.rate = 0#11 ∧ s.sfxLen = 0#3 ∧ s.sfx = 0#7 ∧ s.outBits = 0#10 ∧ s.profile = 0#3 ∧ s.msg = [] ∧ s.sqOff = 0#8

/-- Idle: no instance. -/
abbrev IdleShape (s : State) : Prop :=
  s.A = 0#1600 ∧ s.B = 0#11 ∧ s.W = 0#7 ∧ s.L = 0#3 ∧ s.NR = 0#8 ∧ s.phase = .none ∧ SpongeRegistersClear s

/-- Perm: a width of the seven, W = B/25, W = 2^L, an array of B bits, PHASE None (10_state.md R17, R23). -/
abbrev PermShape (s : State) : Prop :=
  CandidateWidth s.B.toNat ∧ 25 * s.W.toNat = s.B.toNat ∧ s.W.toNat = 2 ^ s.L.toNat ∧ ArrayFits s.B.toNat s.A ∧
    s.phase = .none ∧ SpongeRegistersClear s

/-- The profile registers agree with PROFILE: a row of the table of R120, or a custom sponge of variable output
(10_state.md R21, R22). -/
abbrev ProfileAgrees (s : State) : Prop :=
  (s.profile = 7#3 ∧ s.outBits = 0#10) ∨ profileRow s.profile = some ⟨s.rate, s.sfxLen, s.sfx, s.outBits⟩

/-- What the phase says of the array, the message and SQOFF (10_state.md R26 to R28). -/
abbrev PhaseShape (s : State) : Prop :=
  s.phase ≠ .none ∧ (s.phase = .absorbing → s.A = 0#1600 ∧ s.sqOff = 0#8) ∧
    (s.phase = .squeezing → s.msg = [] ∧ s.sqOff.toNat ≤ s.rate.toNat / 8)

/-- Sponge: B = 1600, W = 64, L = 6, NR = 24, a legal rate, a suffix with no bit beyond its length, a message that fits
(10_state.md R17, R19, R20, R26). -/
abbrev SpongeShape (s : State) : Prop :=
  s.B = 1600#11 ∧ s.W = 64#7 ∧ s.L = 6#3 ∧ s.NR = 24#8 ∧ validRate s.rate = true ∧
    WellFormed.suffixFits s.sfxLen s.sfx = true ∧ ProfileAgrees s ∧ Memory.wf s.cfg s.msg = true ∧ PhaseShape s

/-- The invariant of the engine. -/
abbrev State.Inv (s : State) : Prop :=
  (s.mode = .idle → IdleShape s) ∧ (s.mode = .perm → PermShape s) ∧ (s.mode = .sponge → SpongeShape s)

/-- Every element of the engine's state has its reset value (10_state.md R32). -/
abbrev ResetValues (s : State) : Prop :=
  s.A = 0#1600 ∧ s.B = 0#11 ∧ s.W = 0#7 ∧ s.L = 0#3 ∧ s.NR = 0#8 ∧ s.mode = .idle ∧ s.phase = .none ∧
    s.rate = 0#11 ∧ s.sfxLen = 0#3 ∧ s.sfx = 0#7 ∧ s.outBits = 0#10 ∧ s.profile = 0#3 ∧ s.msg = [] ∧
    s.sqOff = 0#8 ∧ s.errFlags = 0#6

/-- `s` after a command that succeeded with this value word and these output bytes, and changed nothing else:
err = 0 (30_encoding.md R69). -/
def State.succeededWith (s : State) (val : Word) (dout : List Byte) : State :=
  { s with responses := s.responses ++ [⟨0#4, val, dout⟩] }

/-- `s` after a command that raised error `code`: the sticky flag `code - 1` is set, the response is err = code, val = 0,
no bytes, and nothing else changed (60_exceptions.md R163). -/
def State.failedWith (s : State) (code : Nat) : State :=
  { s with errFlags := s.errFlags ||| BitVec.twoPow 6 (code - 1), responses := s.responses ++ [⟨BitVec.ofNat 4 code, 0#32, []⟩] }

/-- The words of the opcode table, by each row's match and mask, with the three conditions its notes say a mask cannot express
(30_encoding.md R65 to R67): SNEW with p below 6, SNEWC with no suffix bit at or above sfxlen, ABSORB with no data beyond cnt. -/
abbrev TableWord (w : Word) : Prop :=
  w ∈ [0x04000000#32, 0x08000000#32, 0x40000000#32, 0x44000000#32, 0x48000000#32, 0x4C000000#32, 0x58000000#32,
    0x90000000#32] ∨
  w &&& 0xFFFFF800#32 = 0x20000000#32 ∨ w &&& 0xFFF80000#32 = 0x24000000#32 ∨
  w &&& 0xFFFFE000#32 = 0x28000000#32 ∨ w &&& 0xFFFFC000#32 = 0x2C000000#32 ∨
  w &&& 0xFFFFFF00#32 = 0x50000000#32 ∨ w &&& 0xFFFFFF00#32 = 0x54000000#32 ∨
  (w &&& 0xFFFFFFF8#32 = 0x80000000#32 ∧ (w &&& 0x7#32).toNat < 6) ∨
  (w &&& 0xFFE00000#32 = 0x84000000#32 ∧
    ∀ i : Nat, i < 7 → (w.extractLsb' 11 3).toNat ≤ i → w.getLsbD (14 + i) = false) ∨
  (w &&& 0xFC000000#32 = 0x88000000#32 ∧
    ∀ i : Nat, i < 3 → (w.extractLsb' 24 2).toNat ≤ i → w.extractLsb' (8 * i) 8 = 0#8) ∨
  w &&& 0xFFFF0000#32 = 0x8C000000#32

/-- "No error was ever raised" since reset, as one predicate on the state (10_state.md R24). -/
abbrev State.NoError (s : State) : Prop := s.errFlags = 0#6

end Sys2Proof.Machine
end

