-- ==== Sys2Proof/Certificates/Slice0/Obligations.lean ====
section
/-! DEFINITION. The statements for the provers. `s.succeededWith v d` is `s` with one more response (0, v, d) and
`s.failedWith k` is `s` with the sticky flag of error k set and one more response (k, 0, -); an equation with one of them is
a command's result and its frame at once, since every field it does not name is that of `s`. -/

open Sys2Proof Sys2Proof.Machine

/-! ### Reset, stepping, the invariant -/

/-- R32: after hardware reset and after the RESET command every element of the state has its reset value. -/
def Obligations.ResetLeavesResetValues : Prop :=
  ResetValues State.reset ∧
  (∀ s : State, ∃ t, exec .reset s = .next t ∧ ResetValues t) ∧
  (∀ (s : State) (rest : List HostInput), s.inputs = .hardwareReset :: rest → ∃ t, step s = .next t ∧ ResetValues t)

/-- R180: hardware reset, while no command or while any command is in progress, leaves the reset state and returns no
response; the model's own fields (log entries 1, 2, 16) keep the configuration, the later inputs and the earlier responses. -/
def Obligations.HardwareResetAbandonsCommand : Prop :=
  ∀ (s : State) (rest : List HostInput) (w : Word),
    (s.inputs = .hardwareReset :: rest ∨ s.inputs = .resetDuring w :: rest) →
      step s = .next { State.reset with cfg := s.cfg, inputs := rest, responses := s.responses }

/-- R174: waiting for a command loses no state (the form of a step with nothing pending is the model's, log entry 3). -/
def Obligations.WaitingChangesNothing : Prop :=
  ∀ s : State, s.inputs = [] → step s = .next s

/-- A step takes the oldest input; a word that decodes is run by exec (R50, R64; the input list is the model's form of the
command port, log entry 2). -/
def Obligations.StepRunsDecodedCommand : Prop :=
  ∀ (s : State) (w : Word) (rest : List HostInput) (i : Instr),
    s.inputs = .command w :: rest → decode w = .ok i → step s = exec i { s with inputs := rest }

/-- R163, R190: no step stops the engine, whatever the state. -/
def Obligations.EveryStepAnswersNext : Prop :=
  ∀ s : State, ∃ t, step s = .next t

/-- The reset state meets the invariant. -/
def Obligations.ResetMeetsInvariant : Prop :=
  State.reset.Inv

/-- Every step keeps the invariant, from every state that meets it, not only in runs from reset: the mode stays legal, the
array fits its width and is zero while Absorbing, W = B/25 = 2^L, the rate stays legal, PROFILE 6 is never produced,
MSGLEN ≤ MSG_CAP, SQOFF ≤ RATE/8 (R15, R17, R19 to R23, R26 to R28, R33; X5). -/
def Obligations.StepKeepsInvariant : Prop :=
  ∀ s t : State, s.Inv → step s = .next t → t.Inv

/-! ### Encoding -/

/-- Words written out from the formats of R61 and the opcodes of R63, and examples of the rules, decode to the command they
stand for. -/
def Obligations.SampleWordsDecode : Prop :=
  decode 0x04000000#32 = .ok .reset ∧ decode 0x08000000#32 = .ok .rdstat ∧
  decode 0x20000640#32 = .ok (.fnew 1600#11) ∧ decode 0x24006640#32 = .ok (.pnew 1600#11 12#8) ∧
  decode 0x28000503#32 = .ok (.bget 1#3 2#3 3#7) ∧ decode 0x2C002503#32 = .ok (.bset 1#3 2#3 3#7 true) ∧
  decode 0x50000001#32 = .ok (.iota 1#8) ∧ decode 0x58000000#32 = .ok .permute ∧
  decode 0x80000004#32 = .ok (.snew 4#3) ∧ decode 0x84009440#32 = .ok (.snewc 1088#11 2#3 0b0000010#7) ∧
  decode 0x8B636261#32 = .ok (.absorb 3#2 0x61#8 0x62#8 0x63#8) ∧ decode 0x8C000020#32 = .ok (.squeeze 32#16) ∧
  decode 0x90000000#32 = .ok .digest

/-- R63: "The full word of a command is the table's word ORed with each operand shifted to its field". -/
def Obligations.CommandWords : Prop :=
  encode .reset = 0x04000000#32 ∧ encode .rdstat = 0x08000000#32 ∧
  (∀ b, encode (.fnew b) = 0x20000000#32 ||| b.setWidth 32) ∧
  (∀ b nr, encode (.pnew b nr) = 0x24000000#32 ||| nr.setWidth 32 <<< 11 ||| b.setWidth 32) ∧
  (∀ x y z, encode (.bget x y z) = 0x28000000#32 ||| x.setWidth 32 <<< 10 ||| y.setWidth 32 <<< 7 ||| z.setWidth 32) ∧
  (∀ x y z v, encode (.bset x y z v) = 0x2C000000#32 ||| (BitVec.ofBool v).setWidth 32 <<< 13 |||
    x.setWidth 32 <<< 10 ||| y.setWidth 32 <<< 7 ||| z.setWidth 32) ∧
  encode .theta = 0x40000000#32 ∧ encode .rho = 0x44000000#32 ∧ encode .pi = 0x48000000#32 ∧
  encode .chi = 0x4C000000#32 ∧
  (∀ ir, encode (.iota ir) = 0x50000000#32 ||| ir.setWidth 32) ∧
  (∀ ir, encode (.round ir) = 0x54000000#32 ||| ir.setWidth 32) ∧ encode .permute = 0x58000000#32 ∧
  (∀ p, encode (.snew p) = 0x80000000#32 ||| p.setWidth 32) ∧
  (∀ rate sfxlen sfx, encode (.snewc rate sfxlen sfx) = 0x84000000#32 ||| sfx.setWidth 32 <<< 14 |||
    sfxlen.setWidth 32 <<< 11 ||| rate.setWidth 32) ∧
  (∀ cnt d0 d1 d2, encode (.absorb cnt d0 d1 d2) = 0x88000000#32 ||| cnt.setWidth 32 <<< 24 ||| d2.setWidth 32 <<< 16 |||
    d1.setWidth 32 <<< 8 ||| d0.setWidth 32) ∧
  (∀ n, encode (.squeeze n) = 0x8C000000#32 ||| n.setWidth 32) ∧ encode .digest = 0x90000000#32

/-- Decode and encode agree, for every command whose fields avoid their reserved values (R67), at every operand value. -/
def Obligations.DecodeOfEncode : Prop :=
  ∀ i : Instr, i.wellFormed = true → decode (encode i) = .ok i

/-- Each word has at most one meaning: a word that decodes is the word of its command, and that command avoids the reserved
field values (R65, R67). -/
def Obligations.EncodeOfDecode : Prop :=
  ∀ (w : Word) (i : Instr), decode w = .ok i → encode i = w ∧ i.wellFormed = true

/-- R65 to R67 (and R64 stages 1 and 2): the words that decode are those of the opcode table, and any other word raises
IllegalCommand, code 4, in every mode and phase, with no effect but that flag and that response. -/
def Obligations.OtherWordsRaiseIllegalCommand : Prop :=
  ∀ w : Word, (TableWord w → ∃ i, decode w = .ok i) ∧
    (¬ TableWord w → ∀ (s : State) (rest : List HostInput), s.inputs = .command w :: rest →
      step s = .next ({ s with inputs := rest }.failedWith 4))

/-! ### Rules about every command -/

/-- R163: a command that reports an error k changes nothing but the sticky flag k - 1, its response is err = k,
val = 0, no bytes, and the engine is ready for the next command. -/
def Obligations.ErrorsChangeOnlyTheirFlag : Prop :=
  ∀ (i : Instr) (s t : State) (r : Response),
    exec i s = .next t → t.responses = s.responses ++ [r] → r.err ≠ 0#4 →
      t = s.failedWith r.err.toNat ∧ ∃ u, step t = .next u

/-- R69: every command returns one response record, its code one of 0 to 6. val is the bit read for BGET, STATUS for RDSTAT,
0 for every other command; dout is empty but for SQUEEZE and DIGEST; with an error val = 0 and dout is empty. -/
def Obligations.EveryCommandReturnsOneResponse : Prop :=
  ∀ (i : Instr) (s : State), ∃ t r, exec i s = .next t ∧ t.responses = s.responses ++ [r] ∧ r.err.toNat ≤ 6 ∧
    (r.err ≠ 0#4 → r.val = 0#32 ∧ r.dout = []) ∧
    (i = .rdstat → r.val = statusWord s) ∧
    (∀ x y z, i = .bget x y z → r.err = 0#4 → r.val = if s.bit x.toNat y.toNat z.toNat = true then 1#32 else 0#32) ∧
    (i ≠ .rdstat → (∀ x y z, i ≠ .bget x y z) → r.val = 0#32) ∧
    ((∀ n, i ≠ .squeeze n) → i ≠ .digest → r.dout = [])

/-- R24: a command that ends with error code k sets flag bit k - 1, no other flag, and changes nothing else; a command that ends without one
sets none; "No command clears a flag except RESET"; hardware reset clears all, also during a command; and the flags are read through RDSTAT only, so the
response to any other command does not depend on them. -/
def Obligations.StickyFlagsAreSticky : Prop :=
  (∀ (i : Instr) (s t : State) (r : Response), exec i s = .next t → t.responses = s.responses ++ [r] →
    (i ≠ .reset → ∀ k, s.errFlags.getLsbD k = true → t.errFlags.getLsbD k = true) ∧
    (i = .reset → t.errFlags = 0#6) ∧
    (i ≠ .reset → r.err = 0#4 → t.errFlags = s.errFlags) ∧
    (r.err ≠ 0#4 → t.errFlags = s.errFlags ||| BitVec.twoPow 6 (r.err.toNat - 1) ∧
      { t with errFlags := s.errFlags, responses := s.responses } = s)) ∧
  (∀ (s t : State) (rest : List HostInput) (w : Word),
    (s.inputs = .hardwareReset :: rest ∨ s.inputs = .resetDuring w :: rest) → step s = .next t → t.errFlags = 0#6) ∧
  (∀ (i : Instr) (s : State) (flags : BitVec 6), i ≠ .rdstat → ∃ t u r, exec i s = .next t ∧
    exec i { s with errFlags := flags } = .next u ∧ t.responses = s.responses ++ [r] ∧ u.responses = s.responses ++ [r])

/-- R15, R17, R18 and R19 to R22: the configuration and the sponge's parameters are written by construction and RESET only. -/
def Obligations.ConfigurationWrittenByConstructionOnly : Prop :=
  ∀ (i : Instr) (s t : State),
    exec i s = .next t → i ≠ .reset → (∀ b, i ≠ .fnew b) → (∀ b nr, i ≠ .pnew b nr) → (∀ p, i ≠ .snew p) →
    (∀ rate sfxlen sfx, i ≠ .snewc rate sfxlen sfx) →
      t.B = s.B ∧ t.W = s.W ∧ t.L = s.L ∧ t.NR = s.NR ∧ t.mode = s.mode ∧ t.rate = s.rate ∧ t.sfxLen = s.sfxLen ∧
      t.sfx = s.sfx ∧ t.outBits = s.outBits ∧ t.profile = s.profile

/-- R121: "There is no edge from Squeezing back to Absorbing" but through a new sponge; and only a first SQUEEZE or DIGEST
leaves Absorbing for Squeezing. -/
def Obligations.NoWayBackToAbsorbing : Prop :=
  ∀ (i : Instr) (s t : State), exec i s = .next t →
    (s.phase ≠ .absorbing → t.phase = .absorbing →
      (∃ p, i = .snew p) ∨ (∃ rate sfxlen sfx, i = .snewc rate sfxlen sfx)) ∧
    (s.phase ≠ .squeezing → t.phase = .squeezing → s.phase = .absorbing ∧ ((∃ n, i = .squeeze n) ∨ i = .digest))

/-- R26, R40 (2): the message buffer by its bytes. ABSORB leaves every byte below MSGLEN as it was and, where it succeeds,
puts d0, d1, d2 at MSGLEN, MSGLEN + 1, MSGLEN + 2 as far as cnt says; BGET, BSET, RDSTAT and the seven permutation commands
leave every byte; SQUEEZE and DIGEST leave every byte outside the Absorbing phase. -/
def Obligations.MessageBufferBytes : Prop :=
  (∀ (cnt : BitVec 2) (d0 d1 d2 : Byte) (s t : State), exec (.absorb cnt d0 d1 d2) s = .next t →
    (∀ a, a < s.msg.length → Memory.read t.msg a = Memory.read s.msg a) ∧
    (t.responses = s.responses ++ [⟨0#4, 0#32, []⟩] →
      ∀ a, s.msg.length ≤ a → Memory.read t.msg a =
        if a < s.msg.length + cnt.toNat then [d0, d1, d2][a - s.msg.length]? else none)) ∧
  (∀ (i : Instr) (s t : State), exec i s = .next t →
    (i = .rdstat ∨ (∃ x y z, i = .bget x y z) ∨ (∃ x y z v, i = .bset x y z v) ∨ i = .theta ∨ i = .rho ∨ i = .pi ∨
      i = .chi ∨ (∃ ir, i = .iota ir) ∨ (∃ ir, i = .round ir) ∨ i = .permute ∨
      (s.phase ≠ .absorbing ∧ ((∃ n, i = .squeeze n) ∨ i = .digest))) →
      ∀ a, Memory.read t.msg a = Memory.read s.msg a)

/-- R68, the whole table: a well-formed command in a cell that is not "ok" raises that cell's error and changes nothing else;
in a cell that is "ok" it raises neither IllegalCommand nor SpongeMisuse. -/
def Obligations.ModeTable : Prop :=
  ∀ (i : Instr) (s : State), i.wellFormed = true →
    let permCommand := (∃ x y z, i = .bget x y z) ∨ (∃ x y z v, i = .bset x y z v) ∨ i = .theta ∨ i = .rho ∨ i = .pi ∨
      i = .chi ∨ (∃ ir, i = .iota ir) ∨ (∃ ir, i = .round ir) ∨ i = .permute
    let absorb := ∃ cnt d0 d1 d2, i = .absorb cnt d0 d1 d2
    let squeeze := ∃ n, i = .squeeze n
    let anywhere := i = .reset ∨ i = .rdstat ∨ (∃ b, i = .fnew b) ∨ (∃ b nr, i = .pnew b nr) ∨ (∃ p, i = .snew p) ∨
      (∃ rate sfxlen sfx, i = .snewc rate sfxlen sfx)
    ((s.mode = .idle ∨ s.mode = .sponge) → permCommand → exec i s = .next (s.failedWith 4)) ∧
    ((s.mode = .idle ∨ s.mode = .perm) → absorb ∨ squeeze ∨ i = .digest → exec i s = .next (s.failedWith 4)) ∧
    (s.mode = .sponge → s.phase = .squeezing → absorb → exec i s = .next (s.failedWith 3)) ∧
    (s.mode = .sponge → s.outBits = 0#10 → i = .digest → exec i s = .next (s.failedWith 4)) ∧
    ((anywhere ∨ (s.mode = .perm ∧ permCommand) ∨ (s.mode = .sponge ∧ s.phase = .absorbing ∧ absorb) ∨
        (s.mode = .sponge ∧ s.phase ≠ .none ∧ (squeeze ∨ (i = .digest ∧ s.outBits ≠ 0#10)))) →
      ∃ t r, exec i s = .next t ∧ t.responses = s.responses ++ [r] ∧ r.err ≠ 4#4 ∧ r.err ≠ 3#4)

/-- From R137: the response to a command and its effect do not depend on the inputs still pending or on the responses returned
before, and no command, RESET included, writes the inputs or the configuration. That these three are fields of the state
beside the engine's own is the model's choice (log entries 1, 2 and 16). -/
def Obligations.CommandsIgnorePortHistory : Prop :=
  ∀ (i : Instr) (s : State) (q : List HostInput) (past : List Response), ∃ t r,
    exec i s = .next t ∧ t.responses = s.responses ++ [r] ∧ t.inputs = s.inputs ∧ t.cfg = s.cfg ∧
    exec i { s with inputs := q, responses := past } = .next { t with inputs := q, responses := past ++ [r] }

/-- R56, R172: the engines of a chip share no state. A step of one leaves every other as it was, and steps of two engines
commute. (A chip as a list of engines is the model's form, log entry 15.) -/
def Obligations.EnginesOfChipAreIndependent : Prop :=
  ∀ (c c1 c2 : Chip) (j k : Nat), j ≠ k → Chip.step j c = .next c1 → Chip.step k c = .next c2 →
    c1.engines[k]? = c.engines[k]? ∧ ∃ d, Chip.step k c1 = .next d ∧ Chip.step j c2 = .next d

/-! ### System commands -/

/-- R150: RESET succeeds in every mode and phase, every element of the engine's state takes its reset value, the response is
err = 0, val = 0, no bytes. (That it leaves the inputs and the configuration alone is said by CommandsIgnorePortHistory.) -/
def Obligations.ResetCommand : Prop :=
  encode .reset = 0x04000000#32 ∧
  ∀ s : State, ∃ t, exec .reset s = .next t ∧ ResetValues t ∧ t.responses = s.responses ++ [⟨0#4, 0#32, []⟩]

/-- R151, R29: RDSTAT succeeds in every mode and phase, changes nothing and returns STATUS, field by field. -/
def Obligations.RdstatCommand : Prop :=
  encode .rdstat = 0x08000000#32 ∧
  ∀ s : State, ∃ v : Word, exec .rdstat s = .next (s.succeededWith v []) ∧
    v.extractLsb' 0 2 = (match s.mode with | .idle => 0#2 | .perm => 1#2 | .sponge => 2#2) ∧
    v.extractLsb' 2 2 = (match s.phase with | .none => 0#2 | .absorbing => 1#2 | .squeezing => 2#2) ∧
    v.extractLsb' 4 6 = s.errFlags ∧ v.extractLsb' 10 3 = s.L ∧ v.extractLsb' 13 8 = s.NR ∧
    v.extractLsb' 21 3 = s.profile ∧ v.extractLsb' 24 8 = 0#8

/-! ### Construction and bit access -/

/-- R80 (with R81, R103): FNEW b in every mode and phase. For one of the seven widths a zero array of that width, W = b/25,
W = 2^L, NR = 12 + 2L, Perm mode, every sponge register 0; for any other b InvalidWidth. -/
def Obligations.FnewCommand : Prop :=
  (∀ b, encode (.fnew b) = 0x20000000#32 ||| b.setWidth 32) ∧
  ∀ (s : State) (b : BitVec 11),
    (CandidateWidth b.toNat → ∃ (w : BitVec 7) (l : BitVec 3) (nr : BitVec 8),
      25 * w.toNat = b.toNat ∧ w.toNat = 2 ^ l.toNat ∧ nr.toNat = 12 + 2 * l.toNat ∧
      exec (.fnew b) s = .next (State.succeededWith
        { s with A := 0#1600, B := b, W := w, L := l, NR := nr, mode := .perm, phase := .none, rate := 0#11, sfxLen := 0#3,
                 sfx := 0#7, outBits := 0#10, profile := 0#3, msg := [], sqOff := 0#8 } 0#32 [])) ∧
    (¬ CandidateWidth b.toNat → exec (.fnew b) s = .next (s.failedWith 1))

/-- R82 (with R81): PNEW b, nr is FNEW b but for NR, which is nr, whatever nr is. -/
def Obligations.PnewCommand : Prop :=
  (∀ b nr, encode (.pnew b nr) = 0x24000000#32 ||| nr.setWidth 32 <<< 11 ||| b.setWidth 32) ∧
  ∀ (s : State) (b : BitVec 11) (nr : BitVec 8),
    (CandidateWidth b.toNat → ∃ (w : BitVec 7) (l : BitVec 3),
      25 * w.toNat = b.toNat ∧ w.toNat = 2 ^ l.toNat ∧
      exec (.pnew b nr) s = .next (State.succeededWith
        { s with A := 0#1600, B := b, W := w, L := l, NR := nr, mode := .perm, phase := .none, rate := 0#11, sfxLen := 0#3,
                 sfx := 0#7, outBits := 0#10, profile := 0#3, msg := [], sqOff := 0#8 } 0#32 [])) ∧
    (¬ CandidateWidth b.toNat → exec (.pnew b nr) s = .next (s.failedWith 1))

/-- R84 (with R83, R42): BGET x, y, z reads A_lin[W(5y + x) + z] into val[0] and changes nothing; BoundsViolation out of
range in Perm mode; IllegalCommand outside Perm mode. -/
def Obligations.BgetCommand : Prop :=
  (∀ x y z, encode (.bget x y z) = 0x28000000#32 ||| x.setWidth 32 <<< 10 ||| y.setWidth 32 <<< 7 ||| z.setWidth 32) ∧
  ∀ (s : State) (x y : BitVec 3) (z : BitVec 7),
    (s.mode = .perm → x.toNat < 5 ∧ y.toNat < 5 ∧ z.toNat < s.W.toNat →
      exec (.bget x y z) s = .next (s.succeededWith
        (if s.A.getLsbD (s.W.toNat * (5 * y.toNat + x.toNat) + z.toNat) = true then 1#32 else 0#32) [])) ∧
    (s.mode = .perm → ¬ (x.toNat < 5 ∧ y.toNat < 5 ∧ z.toNat < s.W.toNat) →
      exec (.bget x y z) s = .next (s.failedWith 5)) ∧
    (s.mode ≠ .perm → exec (.bget x y z) s = .next (s.failedWith 4))

/-- R85 (with R83, R42): BSET x, y, z, v writes A_lin[W(5y + x) + z] and leaves every other bit of A and everything else;
BoundsViolation out of range in Perm mode; IllegalCommand outside Perm mode. -/
def Obligations.BsetCommand : Prop :=
  (∀ x y z v, encode (.bset x y z v) = 0x2C000000#32 ||| (BitVec.ofBool v).setWidth 32 <<< 13 |||
    x.setWidth 32 <<< 10 ||| y.setWidth 32 <<< 7 ||| z.setWidth 32) ∧
  ∀ (s : State) (x y : BitVec 3) (z : BitVec 7) (v : Bool), s.Inv →
    (s.mode = .perm → x.toNat < 5 ∧ y.toNat < 5 ∧ z.toNat < s.W.toNat → ∃ A' : Bits,
      exec (.bset x y z v) s = .next (State.succeededWith { s with A := A' } 0#32 []) ∧
      ∀ i, A'.getLsbD i =
        if i = s.W.toNat * (5 * y.toNat + x.toNat) + z.toNat then v else s.A.getLsbD i) ∧
    (s.mode = .perm → ¬ (x.toNat < 5 ∧ y.toNat < 5 ∧ z.toNat < s.W.toNat) →
      exec (.bset x y z v) s = .next (s.failedWith 5)) ∧
    (s.mode ≠ .perm → exec (.bset x y z v) s = .next (s.failedWith 4))

/-- R86, which the spec marks as derived: get after set. In Perm mode, after BSET x,y,z,v, BGET x',y',z' returns v at the
same coordinates and what it would have returned before at others. -/
def Obligations.GetAfterSet : Prop :=
  ∀ (s : State) (x y x' y' : BitVec 3) (z z' : BitVec 7) (v : Bool), s.Inv → s.mode = .perm →
    x.toNat < 5 → y.toNat < 5 → z.toNat < s.W.toNat → x'.toNat < 5 → y'.toNat < 5 → z'.toNat < s.W.toNat →
    ∃ t u u0 val val0,
      exec (.bset x y z v) s = .next t ∧ exec (.bget x' y' z') t = .next u ∧ exec (.bget x' y' z') s = .next u0 ∧
      u.responses = t.responses ++ [⟨0#4, val, []⟩] ∧ u0.responses = s.responses ++ [⟨0#4, val0, []⟩] ∧
      val = if x' = x ∧ y' = y ∧ z' = z then (if v = true then 1#32 else 0#32) else val0

/-! ### The permutation -/

/-- R107 with R95: in Perm mode THETA replaces A by theta(A), bit by bit, and changes nothing else; elsewhere IllegalCommand. -/
def Obligations.ThetaCommand : Prop :=
  encode .theta = 0x40000000#32 ∧
  ∀ s : State, s.Inv →
    (s.mode = .perm → ∃ A' : Bits, exec .theta s = .next (State.succeededWith { s with A := A' } 0#32 []) ∧
      ArrayFits s.B.toNat A' ∧ ∀ x y z, x < 5 → y < 5 → z < s.W.toNat →
        bitAt s.W.toNat A' x y z = thetaRule s.W.toNat (bitAt s.W.toNat s.A) x y z) ∧
    (s.mode ≠ .perm → exec .theta s = .next (s.failedWith 4))

/-- R108 with R96: RHO (the offsets and the direction of the rotation are the spec's general knowledge, log entry 13). -/
def Obligations.RhoCommand : Prop :=
  encode .rho = 0x44000000#32 ∧
  ∀ s : State, s.Inv →
    (s.mode = .perm → ∃ A' : Bits, exec .rho s = .next (State.succeededWith { s with A := A' } 0#32 []) ∧
      ArrayFits s.B.toNat A' ∧ ∀ x y z, x < 5 → y < 5 → z < s.W.toNat →
        bitAt s.W.toNat A' x y z = rhoRule s.W.toNat (bitAt s.W.toNat s.A) x y z) ∧
    (s.mode ≠ .perm → exec .rho s = .next (s.failedWith 4))

/-- R109 with R97: PI. -/
def Obligations.PiCommand : Prop :=
  encode .pi = 0x48000000#32 ∧
  ∀ s : State, s.Inv →
    (s.mode = .perm → ∃ A' : Bits, exec .pi s = .next (State.succeededWith { s with A := A' } 0#32 []) ∧
      ArrayFits s.B.toNat A' ∧ ∀ x y z, x < 5 → y < 5 → z < s.W.toNat →
        bitAt s.W.toNat A' x y z = piRule (bitAt s.W.toNat s.A) x y z) ∧
    (s.mode ≠ .perm → exec .pi s = .next (s.failedWith 4))

/-- R110 with R98: CHI. -/
def Obligations.ChiCommand : Prop :=
  encode .chi = 0x4C000000#32 ∧
  ∀ s : State, s.Inv →
    (s.mode = .perm → ∃ A' : Bits, exec .chi s = .next (State.succeededWith { s with A := A' } 0#32 []) ∧
      ArrayFits s.B.toNat A' ∧ ∀ x y z, x < 5 → y < 5 → z < s.W.toNat →
        bitAt s.W.toNat A' x y z = chiRule (bitAt s.W.toNat s.A) x y z) ∧
    (s.mode ≠ .perm → exec .chi s = .next (s.failedWith 4))

/-- R111 with R99, R92 and R91: IOTA ir, every ir legal, the constant taken from the shift register of R91 (the register and
the constant's argument are the spec's general knowledge, log entry 13). -/
def Obligations.IotaCommand : Prop :=
  (∀ ir, encode (.iota ir) = 0x50000000#32 ||| ir.setWidth 32) ∧
  ∀ (s : State) (ir : BitVec 8), s.Inv →
    (s.mode = .perm → ∃ A' : Bits, exec (.iota ir) s = .next (State.succeededWith { s with A := A' } 0#32 []) ∧
      ArrayFits s.B.toNat A' ∧ ∀ x y z, x < 5 → y < 5 → z < s.W.toNat →
        bitAt s.W.toNat A' x y z = iotaRule s.L.toNat ir.toNat (bitAt s.W.toNat s.A) x y z) ∧
    (s.mode ≠ .perm → exec (.iota ir) s = .next (s.failedWith 4))

/-- R112 with R100: ROUND ir is iota(chi(pi(rho(theta(A)))), ir) of the bit rules (tables as in log entry 13). -/
def Obligations.RoundCommand : Prop :=
  (∀ ir, encode (.round ir) = 0x54000000#32 ||| ir.setWidth 32) ∧
  ∀ (s : State) (ir : BitVec 8), s.Inv →
    (s.mode = .perm → ∃ A' : Bits, exec (.round ir) s = .next (State.succeededWith { s with A := A' } 0#32 []) ∧
      ArrayFits s.B.toNat A' ∧ ∀ x y z, x < 5 → y < 5 → z < s.W.toNat →
        bitAt s.W.toNat A' x y z = roundRule s.W.toNat s.L.toNat ir.toNat (bitAt s.W.toNat s.A) x y z) ∧
    (s.mode ≠ .perm → exec (.round ir) s = .next (s.failedWith 4))

/-- R113 with R104: PERMUTE, at every width and every round count. The lane form the machine runs refines the bit rules, NR
rounds with the indices 12 + 2L - NR to 12 + 2L - 1 (this base for Keccak-p is the spec's decision D8, log entry 8; the tables are log entry 13). -/
def Obligations.PermuteRefinesBitRules : Prop :=
  encode .permute = 0x58000000#32 ∧
  ∀ s : State, s.Inv →
    (s.mode = .perm → ∃ A' : Bits, exec .permute s = .next (State.succeededWith { s with A := A' } 0#32 []) ∧
      ArrayFits s.B.toNat A' ∧ ∀ x y z, x < 5 → y < 5 → z < s.W.toNat →
        bitAt s.W.toNat A' x y z =
          roundsRule s.W.toNat s.L.toNat s.NR.toNat (12 + 2 * (s.L.toNat : Int) - (s.NR.toNat : Int))
            (bitAt s.W.toNat s.A) x y z) ∧
    (s.mode ≠ .perm → exec .permute s = .next (s.failedWith 4))

/-- R112's law, which the spec marks as derived: ROUND ir has the effect on A of THETA; RHO; PI; CHI; IOTA ir. -/
def Obligations.RoundIsFiveCommands : Prop :=
  ∀ (s : State) (ir : BitVec 8), s.mode = .perm → ∃ t1 t2 t3 t4 t5 u,
    exec .theta s = .next t1 ∧ exec .rho t1 = .next t2 ∧ exec .pi t2 = .next t3 ∧ exec .chi t3 = .next t4 ∧
    exec (.iota ir) t4 = .next t5 ∧ exec (.round ir) s = .next u ∧
    u.A = t5.A ∧ { u with responses := t5.responses } = t5

/-- R113's law, which the spec marks as derived: PERMUTE has the effect of NR ROUND commands, with the indices reduced modulo
255, negative ones too. -/
def Obligations.PermuteIsRoundCommands : Prop :=
  ∀ s : State, s.mode = .perm → ∃ t : Nat → State, t 0 = s ∧
    (∀ k, k < s.NR.toNat →
      exec (.round (BitVec.ofNat 8 ((12 + 2 * (s.L.toNat : Int) - (s.NR.toNat : Int) + (k : Int)) % 255).toNat)) (t k) =
        .next (t (k + 1))) ∧
    ∃ u, exec .permute s = .next u ∧ u = { t s.NR.toNat with responses := u.responses } ∧
      u.responses = s.responses ++ [⟨0#4, 0#32, []⟩]

/-- R91: the table of rc the machine reads (log entry 12) is the sequence of the shift register, for every integer t. -/
def Obligations.RcTableIsShiftRegister : Prop :=
  ∀ t : Int, rc t = rcByLfsr t

/-- R92 and R94, in the parts the spec marks as derived: the round constant depends on ir modulo 255 only, and the constant of
a narrower width is the low bits of that of width 64. -/
def Obligations.RoundConstantPeriodAndTruncation : Prop :=
  (∀ (w l : Nat) (ir ir' : Int), ir % 255 = ir' % 255 → roundConstant w l ir = roundConstant w l ir') ∧
  (∀ (l : Nat) (ir : Int), l ≤ 6 → roundConstant (2 ^ l) l ir = (roundConstant 64 6 ir).setWidth (2 ^ l))

/-- R90: the offset table is what the generating walk gives, reduced modulo 64, and the walk visits every lane but (0, 0). -/
def Obligations.RhoOffsetsFollowWalk : Prop :=
  rotationOffset 0 0 = 0 ∧
  (∀ t, t < 24 → rotationOffset (offsetWalk t).1 (offsetWalk t).2 = walkOffset t % 64) ∧
  (∀ x y, x < 5 → y < 5 → (x, y) ≠ (0, 0) → ∃ t, t < 24 ∧ offsetWalk t = (x, y))

/-- R98's row table, which the spec marks as derived: chi acts on each row of five bits as the table says. -/
def Obligations.ChiActsOnRowsByTable : Prop :=
  ∀ (A : Nat → Nat → Nat → Bool) (y z : Nat), rowValue (chiRule A) y z = chiRow.getD (rowValue A y z) 0

/-- R105's inverses, which the spec marks as derived: rho⁻¹ and pi⁻¹ undo rho and pi, on both sides, and iota undoes itself,
at each of the seven widths. -/
def Obligations.RhoPiIotaInverses : Prop :=
  ∀ (l : Nat) (A : Bits), l ≤ 6 → ArrayFits (25 * 2 ^ l) A →
    rhoInverse (2 ^ l) (rho (2 ^ l) A) = A ∧ rho (2 ^ l) (rhoInverse (2 ^ l) A) = A ∧
    piInverse (2 ^ l) (pi (2 ^ l) A) = A ∧ pi (2 ^ l) (piInverse (2 ^ l) A) = A ∧
    ∀ ir : Int, iota (2 ^ l) l ir (iota (2 ^ l) l ir A) = A

/-- R105, which the spec marks as derived for each sub-step: theta is a bijection at each of the seven widths (the spec gives
no closed inverse). -/
def Obligations.ThetaIsBijective : Prop :=
  ∀ l : Nat, l ≤ 6 →
    Set.BijOn (theta (2 ^ l)) { A | ArrayFits (25 * 2 ^ l) A } { A | ArrayFits (25 * 2 ^ l) A }

/-- R105: "The permutation is a bijection on the 2^b possible states", at each of the seven widths and every round count; so
PERMUTE loses no state. -/
def Obligations.PermutationIsBijective : Prop :=
  ∀ l nr : Nat, l ≤ 6 →
    Set.BijOn (keccakP (2 ^ l) l nr) { A | ArrayFits (25 * 2 ^ l) A } { A | ArrayFits (25 * 2 ^ l) A }

/-! ### The sponge -/

/-- R124 with R120: SNEW p in every mode and phase, row by row of the profile table; p = 6 and 7 raise IllegalCommand. -/
def Obligations.SnewCommand : Prop :=
  (∀ p, encode (.snew p) = 0x80000000#32 ||| p.setWidth 32) ∧
  ∀ (s : State) (p : BitVec 3),
    (∀ row ∈ [(0#3, 1152#11, 2#3, 2#7, 224#10), (1#3, 1088#11, 2#3, 2#7, 256#10), (2#3, 832#11, 2#3, 2#7, 384#10),
        (3#3, 576#11, 2#3, 2#7, 512#10), (4#3, 1344#11, 4#3, 15#7, 0#10), (5#3, 1088#11, 4#3, 15#7, 0#10)],
      p = row.1 → exec (.snew p) s = .next (State.succeededWith
        { s with A := 0#1600, B := 1600#11, W := 64#7, L := 6#3, NR := 24#8, mode := .sponge, phase := .absorbing,
                 rate := row.2.1, sfxLen := row.2.2.1, sfx := row.2.2.2.1, outBits := row.2.2.2.2, profile := p,
                 msg := [], sqOff := 0#8 } 0#32 [])) ∧
    (6 ≤ p.toNat → exec (.snew p) s = .next (s.failedWith 4))

/-- R125: SNEWC in every mode and phase. A suffix bit at or above sfxlen is IllegalCommand; else a rate that is 0, 1600 or
more, or no multiple of 8 is InvalidRate; else a sponge of that rate and suffix with OUTBITS 0 and PROFILE 7. -/
def Obligations.SnewcCommand : Prop :=
  (∀ rate sfxlen sfx, encode (.snewc rate sfxlen sfx) = 0x84000000#32 ||| sfx.setWidth 32 <<< 14 |||
    sfxlen.setWidth 32 <<< 11 ||| rate.setWidth 32) ∧
  ∀ (s : State) (rate : BitVec 11) (sfxlen : BitVec 3) (sfx : BitVec 7),
    ((∃ i, sfxlen.toNat ≤ i ∧ sfx.getLsbD i = true) → exec (.snewc rate sfxlen sfx) s = .next (s.failedWith 4)) ∧
    ((∀ i, sfxlen.toNat ≤ i → sfx.getLsbD i = false) →
      ((rate.toNat = 0 ∨ 1600 ≤ rate.toNat ∨ rate.toNat % 8 ≠ 0) →
        exec (.snewc rate sfxlen sfx) s = .next (s.failedWith 2)) ∧
      (0 < rate.toNat → rate.toNat < 1600 → rate.toNat % 8 = 0 →
        exec (.snewc rate sfxlen sfx) s = .next (State.succeededWith
          { s with A := 0#1600, B := 1600#11, W := 64#7, L := 6#3, NR := 24#8, mode := .sponge, phase := .absorbing,
                   rate := rate, sfxLen := sfxlen, sfx := sfx, outBits := 0#10, profile := 7#3, msg := [],
                   sqOff := 0#8 } 0#32 [])))

/-- R126 (with R67): ABSORB. Data beyond cnt is IllegalCommand; else outside Sponge mode IllegalCommand, in the Squeezing
phase SpongeMisuse whatever cnt is, in the Absorbing phase BufferOverflow where MSGLEN + cnt > MSG_CAP and otherwise exactly
the first cnt bytes are appended. For every MSG_CAP (log entry 1). -/
def Obligations.AbsorbCommand : Prop :=
  (∀ cnt d0 d1 d2, encode (.absorb cnt d0 d1 d2) = 0x88000000#32 ||| cnt.setWidth 32 <<< 24 ||| d2.setWidth 32 <<< 16 |||
    d1.setWidth 32 <<< 8 ||| d0.setWidth 32) ∧
  ∀ (s : State) (cnt : BitVec 2) (d0 d1 d2 : Byte),
    ((∃ i, cnt.toNat ≤ i ∧ [d0, d1, d2].getD i 0#8 ≠ 0#8) → exec (.absorb cnt d0 d1 d2) s = .next (s.failedWith 4)) ∧
    ((∀ i, cnt.toNat ≤ i → [d0, d1, d2].getD i 0#8 = 0#8) →
      (s.mode ≠ .sponge → exec (.absorb cnt d0 d1 d2) s = .next (s.failedWith 4)) ∧
      (s.mode = .sponge → s.phase = .squeezing → exec (.absorb cnt d0 d1 d2) s = .next (s.failedWith 3)) ∧
      (s.mode = .sponge → s.phase = .absorbing → (∃ cap, s.cfg.msgCap = some cap ∧ cap < s.msg.length + cnt.toNat) →
        exec (.absorb cnt d0 d1 d2) s = .next (s.failedWith 6)) ∧
      (s.mode = .sponge → s.phase = .absorbing → (∀ cap, s.cfg.msgCap = some cap → s.msg.length + cnt.toNat ≤ cap) →
        exec (.absorb cnt d0 d1 d2) s = .next (State.succeededWith
          { s with msg := s.msg ++ [d0, d1, d2].take cnt.toNat } 0#32 [])))

/-- R123: pad(r, m) is 1, then j zeros with j < r, then 1; with it m bits become a multiple of r, the least that is at least
m + 2. -/
def Obligations.PaddingIsMinimal : Prop :=
  ∀ r m : Nat, 0 < r → ∃ j, j < r ∧ pad r m = [true] ++ List.replicate j false ++ [true] ∧
    ((m : Int) + (j : Int) + 2) % (r : Int) = 0 ∧ (∀ k, r ∣ k → m + 2 ≤ k → m + (pad r m).length ≤ k)

/-- R127: the padded message is a whole number of blocks, ((8 MSGLEN + SFXLEN + 1) div RATE) + 1,
and its bits are message, suffix, 1, zeros, 1. -/
def Obligations.PaddedMessageBits : Prop :=
  ∀ (rate : Nat) (sfxLen : BitVec 3) (sfx : BitVec 7) (msg : List Byte), 0 < rate →
    (paddedMessage rate sfxLen sfx msg).length = ((8 * msg.length + sfxLen.toNat + 1) / rate + 1) * rate ∧
    ∀ i, i < (paddedMessage rate sfxLen sfx msg).length →
      (paddedMessage rate sfxLen sfx msg).getD i false = paddedBitRule rate sfxLen sfx msg i

/-- R134, which the spec marks as derived: the byte form of suffix and padding for SFXLEN ≤ 6. -/
def Obligations.ByteFormOfPadding : Prop :=
  ∀ (rate : BitVec 11) (sfxLen : BitVec 3) (sfx : BitVec 7) (msg : List Byte),
    validRate rate = true → sfxLen.toNat ≤ 6 → WellFormed.suffixFits sfxLen sfx = true →
    let r8 := rate.toNat / 8
    let q := msg.length % r8
    let first : Byte := sfx.setWidth 8 ||| BitVec.twoPow 8 sfxLen.toNat
    paddedMessage rate.toNat sfxLen sfx msg = messageBits (msg ++
      if q + 2 ≤ r8 then first :: (List.replicate (r8 - q - 2) 0x00#8 ++ [0x80#8]) else [first ||| 0x80#8])

/-- R128, R129, R130 with R127: a SQUEEZE of any n, also 0, and a DIGEST in the Absorbing phase first finalize. The blocks of
the padded message are XORed into the first RATE bits of the array, in order, each followed by Keccak-f[1600]; the phase
becomes Squeezing, SQOFF 0, MSG empty; then the command goes on as in that state. No other command finalizes. -/
def Obligations.FirstSqueezeFinalizes : Prop :=
  ∀ (s : State) (n : BitVec 16), s.Inv → s.mode = .sponge → s.phase = .absorbing → ∃ blocks : List Bits,
    blocks.length = (8 * s.msg.length + s.sfxLen.toNat + 1) / s.rate.toNat + 1 ∧
    (∀ k, k < blocks.length → ∀ i, i < 1600 → (blocks.getD k 0#1600).getLsbD i =
      (decide (i < s.rate.toNat) && paddedBitRule s.rate.toNat s.sfxLen s.sfx s.msg (k * s.rate.toNat + i))) ∧
    let f : State := { s with A := blocks.foldl (fun A block => keccakF1600 (A ^^^ block)) s.A, phase := .squeezing,
                              sqOff := 0#8, msg := [] }
    (∃ t, exec (.squeeze n) s = .next t ∧ exec (.squeeze n) f = .next t) ∧
    exec (.squeeze 0#16) s = .next (f.succeededWith 0#32 []) ∧
    (s.outBits ≠ 0#10 → ∃ t, exec .digest s = .next t ∧ exec .digest f = .next t) ∧
    (∀ (i : Instr) (t : State), exec i s = .next t → (∀ n, i ≠ .squeeze n) → i ≠ .digest → t.phase ≠ .squeezing)

/-- R131 with R132: SQUEEZE n in the Squeezing phase. Output byte k comes from the array after (SQOFF + k) div (RATE/8)
permutations, at offset (SQOFF + k) mod (RATE/8); the array ends after ceil((SQOFF + n)/(RATE/8)) - 1 permutations (none if
n = 0), SQOFF counts the bytes taken from that block, and nothing else changes. In the Absorbing phase it is finalize()
(FirstSqueezeFinalizes states it) and then that. Outside Sponge mode IllegalCommand. -/
def Obligations.SqueezeCommand : Prop :=
  (∀ n, encode (.squeeze n) = 0x8C000000#32 ||| n.setWidth 32) ∧
  ∀ (s : State) (n : BitVec 16), s.Inv →
    (s.mode = .sponge → s.phase = .squeezing →
      let r8 := s.rate.toNat / 8
      let off := s.sqOff.toNat
      let perms := if n.toNat = 0 then 0 else (off + n.toNat - 1) / r8
      ∃ (dout : List Byte) (off' : BitVec 8),
        exec (.squeeze n) s = .next (State.succeededWith { s with A := keccakF1600^[perms] s.A, sqOff := off' } 0#32 dout) ∧
        off'.toNat + perms * r8 = off + n.toNat ∧ dout.length = n.toNat ∧
        ∀ k, k < n.toNat → ∀ i, i < 8 → (dout.getD k 0#8).getLsbD i =
          (keccakF1600^[(off + k) / r8] s.A).getLsbD (8 * ((off + k) % r8) + i)) ∧
    (s.mode = .sponge → s.phase = .absorbing → ∃ t,
      exec (.squeeze n) s = .next t ∧ exec (.squeeze n) s.finalize = .next t) ∧
    (s.mode ≠ .sponge → exec (.squeeze n) s = .next (s.failedWith 4))

/-- R136: DIGEST on a sponge of fixed output length is SQUEEZE (OUTBITS/8), in either phase, and returns that many bytes;
on a sponge of variable output and outside Sponge mode it is IllegalCommand. -/
def Obligations.DigestCommand : Prop :=
  encode .digest = 0x90000000#32 ∧
  ∀ s : State, s.Inv →
    (s.mode = .sponge → s.outBits ≠ 0#10 →
      exec .digest s = exec (.squeeze (BitVec.ofNat 16 (s.outBits.toNat / 8))) s ∧
      ∃ t dout, exec .digest s = .next t ∧ t.phase = .squeezing ∧ t.responses = s.responses ++ [⟨0#4, 0#32, dout⟩] ∧
        dout.length = s.outBits.toNat / 8) ∧
    (s.mode = .sponge → s.outBits = 0#10 → exec .digest s = .next (s.failedWith 4)) ∧
    (s.mode ≠ .sponge → exec .digest s = .next (s.failedWith 4))

/-- R133: SQUEEZE n then SQUEEZE m returns the bytes of SQUEEZE (n + m) and leaves the same engine state. -/
def Obligations.IncrementalSqueeze : Prop :=
  ∀ (s : State) (n m : BitVec 16), s.mode = .sponge → s.phase ≠ .none → n.toNat + m.toNat ≤ 65535 →
    ∃ t u v d1 d2, exec (.squeeze n) s = .next t ∧ exec (.squeeze m) t = .next u ∧
      exec (.squeeze (n + m)) s = .next v ∧
      t.responses = s.responses ++ [⟨0#4, 0#32, d1⟩] ∧ u.responses = t.responses ++ [⟨0#4, 0#32, d2⟩] ∧
      v.responses = s.responses ++ [⟨0#4, 0#32, d1 ++ d2⟩] ∧ { u with responses := v.responses } = v

/-- R43: the capacity bits are never output. Two sponges that differ only in the capacity part of A answer a SQUEEZE that stays
in the current block with the same bytes. -/
def Obligations.CapacityIsNeverOutput : Prop :=
  ∀ (s : State) (A' : Bits) (n : BitVec 16), s.Inv → s.mode = .sponge → s.phase = .squeezing →
    (∀ i, i < s.rate.toNat → A'.getLsbD i = s.A.getLsbD i) → s.sqOff.toNat + n.toNat ≤ s.rate.toNat / 8 →
    ∃ t t' r, exec (.squeeze n) s = .next t ∧ exec (.squeeze n) { s with A := A' } = .next t' ∧
      t.responses = s.responses ++ [r] ∧ t'.responses = s.responses ++ [r]

/-- R44, which the spec marks as derived: in Sponge mode a lane is the little-endian integer of its eight bytes: output byte k
is bits 8 (k mod 8) up of lane k div 8, and absorbed byte k of a block goes there. -/
def Obligations.LanesAreLittleEndian : Prop :=
  (∀ (A : Bits) (k : Nat), k < 200 → outByte A k = (laneNo 64 A (k / 8)).extractLsb' (8 * (k % 8)) 8) ∧
  (∀ (msg : List Byte) (k : Nat), k < 200 →
    (laneNo 64 (bitsOf (messageBits msg)) (k / 8)).extractLsb' (8 * (k % 8)) 8 = msg.getD k 0#8)

/-- R53, which the spec marks as derived: early absorption cannot be observed. `s.absorbedEarly n` has absorbed the first n
complete blocks of the message beforehand and keeps only the rest. Finalization from it gives the same array. In the Absorbing
phase, with MSG_CAP unbounded ("such an implementation ... behaves as MSG_CAP = unbounded"), every command returns the same
response from it as from s, and leaves either the same state or again the two states that differ by those n blocks; so no
further sequence of commands tells them apart. -/
def Obligations.EarlyAbsorptionIsUnobservable : Prop :=
  ∀ (s : State) (n : Nat), validRate s.rate = true → n * s.rate.toNat ≤ 8 * s.msg.length →
    finalArray (s.absorbedEarly n) = finalArray s ∧
    (s.mode = .sponge → s.phase = .absorbing → s.cfg.msgCap = none → ∀ i : Instr, ∃ t u r,
      exec i s = .next t ∧ exec i (s.absorbedEarly n) = .next u ∧
      t.responses = s.responses ++ [r] ∧ u.responses = s.responses ++ [r] ∧
      (u = t ∨ (u = t.absorbedEarly n ∧ t.mode = .sponge ∧ t.phase = .absorbing ∧ t.cfg.msgCap = none ∧
        validRate t.rate = true ∧ n * t.rate.toNat ≤ 8 * t.msg.length)))

/-- R135 with R71: the pseudo-commands HASH and XOF, issued to an engine in any state, return the sponge function of the
message: one response OK for each command before the last, then the output bytes. For every MSG_CAP the message fits. -/
def Obligations.HashReturnsSpongeFunction : Prop :=
  ∀ (s : State) (p : BitVec 3) (row : ProfileRow) (msg : List Byte) (len : BitVec 16),
    s.inputs = [] → profileRow p = some row → (∀ cap, s.cfg.msgCap = some cap → msg.length ≤ cap) →
    (p.toNat < 4 → ∃ t, core.run (pseudoHash p msg).length (s.issue (pseudoHash p msg)) = .next t ∧ t.inputs = [] ∧
      t.responses = s.responses ++ List.replicate ((pseudoHash p msg).length - 1) ⟨0#4, 0#32, []⟩ ++
        [⟨0#4, 0#32, spongeFunction row.rate.toNat row.sfxLen row.sfx msg (row.outBits.toNat / 8)⟩]) ∧
    (4 ≤ p.toNat → ∃ t, core.run (pseudoXof p len msg).length (s.issue (pseudoXof p len msg)) = .next t ∧ t.inputs = [] ∧
      t.responses = s.responses ++ List.replicate ((pseudoXof p len msg).length - 1) ⟨0#4, 0#32, []⟩ ++
        [⟨0#4, 0#32, spongeFunction row.rate.toNat row.sfxLen row.sfx msg len.toNat⟩])
end

