-- ==== Sys2Proof/Laws/Bits.lean ====
section
/-! SUPPORT. The bits of arrays: one lemma for each way of reading or building one, and extensionality by coordinates. -/

namespace Sys2Proof.Machine

/-! ### Reading -/

theorem getLsbD_laneNo (w : Nat) (A : Bits) (n z : Nat) :
    (laneNo w A n).getLsbD z = (decide (z < w) && A.getLsbD (w * n + z)) := by
  simp [laneNo, BitVec.getLsbD_setWidth, BitVec.getLsbD_ushiftRight]

theorem getLsbD_lane (w : Nat) (A : Bits) (x y z : Nat) :
    (lane w A x y).getLsbD z = (decide (z < w) && bitAt w A x y z) := by
  simp [lane, getLsbD_laneNo, bitAt, linearIndex]

theorem getLsbD_setBit (A : Bits) (i j : Nat) (v : Bool) (hi : i < 1600) :
    (setBit A i v).getLsbD j = if j = i then v else A.getLsbD j := by
  by_cases hj : j < 1600
  · unfold setBit
    split <;> rename_i hv <;> by_cases h : i = j <;>
      simp [h, hv, hj, eq_comm (a := j)]
  · have h : j ≠ i := by omega
    rw [if_neg h, BitVec.getLsbD_of_ge _ _ (by omega), BitVec.getLsbD_of_ge _ _ (by omega)]

/-! ### Building from lanes -/

theorem getLsbD_ofLanes (w : Nat) (hw : 0 < w) (vs : List (BitVec w)) (i : Nat) (hi : i < 1600) :
    (ofLanes w vs).getLsbD i = (vs.getD (i / w) 0#w).getLsbD (i % w) := by
  induction vs generalizing i with
  | nil => simp [ofLanes]
  | cons v vs ih =>
    rw [ofLanes, BitVec.getLsbD_or, BitVec.getLsbD_shiftLeft, BitVec.getLsbD_setWidth]
    by_cases h : i < w
    · simp [h, hi, Nat.div_eq_of_lt h, Nat.mod_eq_of_lt h]
    · have hd : i / w = (i - w) / w + 1 := by
        rw [show i = (i - w) + w by omega, Nat.add_div_right _ hw]; simp
      have hm : i % w = (i - w) % w := by
        conv_lhs => rw [show i = (i - w) + w by omega, Nat.add_mod_right]
      simp [h, hi, ih (i - w) (by omega), hd, hm, BitVec.getLsbD_of_ge v i (by omega)]

theorem getLsbD_arrayOf (w : Nat) (hw : 0 < w) (f : Nat → Nat → BitVec w) (i : Nat) (hi : i < 1600) :
    (arrayOf w f).getLsbD i = (decide (i / w < 25) && (f (i / w % 5) (i / w / 5)).getLsbD (i % w)) := by
  rw [arrayOf, getLsbD_ofLanes w hw _ i hi]
  by_cases h : i / w < 25 <;> simp [List.getD_eq_getElem?_getD, h]

/-- Coordinates in range have a linear index below 25w (20_memory.md R42). -/
theorem linearIndex_lt {w x y z : Nat} (hx : x < 5) (hy : y < 5) (hz : z < w) :
    linearIndex w x y z < 25 * w := by
  have h : w * (5 * y + x) ≤ w * 24 := Nat.mul_le_mul_left w (by omega)
  unfold linearIndex
  omega

theorem linearIndex_div {w x y z : Nat} (hz : z < w) : linearIndex w x y z / w = 5 * y + x := by
  rw [linearIndex, Nat.mul_add_div (by omega), Nat.div_eq_of_lt hz, Nat.add_zero]

theorem linearIndex_mod {w x y z : Nat} (hz : z < w) : linearIndex w x y z % w = z := by
  rw [linearIndex, Nat.mul_add_mod, Nat.mod_eq_of_lt hz]

/-- The bits of an array given by its lanes (10_state.md R14). -/
theorem bitAt_arrayOf {w x y z : Nat} (f : Nat → Nat → BitVec w) (hx : x < 5) (hy : y < 5) (hz : z < w) (hw : w ≤ 64) :
    bitAt w (arrayOf w f) x y z = (f x y).getLsbD z := by
  have hi : linearIndex w x y z < 1600 := by
    have := linearIndex_lt hx hy hz
    omega
  rw [bitAt, getLsbD_arrayOf w (by omega) f _ hi, linearIndex_div hz, linearIndex_mod hz]
  have h1 : (5 * y + x) % 5 = x := by omega
  have h2 : (5 * y + x) / 5 = y := by omega
  have h3 : 5 * y + x < 25 := by omega
  simp [h1, h2, h3]

/-- An array fits below `n` exactly when it has no bit at `n` or above. -/
theorem fits_iff (A : Bits) (n : Nat) : A.toNat < 2 ^ n ↔ ∀ i, n ≤ i → A.getLsbD i = false := by
  constructor
  · intro h i hi
    exact Nat.testBit_lt_two_pow (Nat.lt_of_lt_of_le h (Nat.pow_le_pow_right (by decide) hi))
  · intro h
    exact Nat.lt_pow_two_of_testBit _ fun i hi => h i hi

/-- An array given by its lanes has no bit at 25w or above. -/
theorem arrayOf_fits {w : Nat} (f : Nat → Nat → BitVec w) (hw0 : 0 < w) : (arrayOf w f).toNat < 2 ^ (25 * w) := by
  rw [fits_iff]
  intro i hi
  by_cases h : i < 1600
  · rw [getLsbD_arrayOf w hw0 f i h]
    have : ¬ i / w < 25 := by
      rw [Nat.not_lt, Nat.le_div_iff_mul_le hw0]
      omega
    simp [this]
  · exact BitVec.getLsbD_of_ge _ _ (by omega)

/-- Every linear index below 25w is that of coordinates in range (20_memory.md R42). -/
theorem linearIndex_surj {w i : Nat} (hw : 0 < w) (hi : i < 25 * w) :
    ∃ x y z, x < 5 ∧ y < 5 ∧ z < w ∧ linearIndex w x y z = i := by
  have h : i / w < 25 := Nat.div_lt_of_lt_mul (by omega)
  refine ⟨i / w % 5, i / w / 5, i % w, by omega, by omega, Nat.mod_lt _ hw, ?_⟩
  have h5 : 5 * (i / w / 5) + i / w % 5 = i / w := Nat.div_add_mod _ _
  rw [linearIndex, h5, Nat.div_add_mod]

/-- The linear index tells coordinates in range apart (20_memory.md R42). -/
theorem linearIndex_inj {w x y z x' y' z' : Nat} (hx : x < 5) (hz : z < w) (hx' : x' < 5) (hz' : z' < w)
    (h : linearIndex w x y z = linearIndex w x' y' z') : x = x' ∧ y = y' ∧ z = z' := by
  have hd := linearIndex_div (x := x) (y := y) hz
  have hm := linearIndex_mod (x := x) (y := y) hz
  rw [h, linearIndex_div hz'] at hd
  rw [h, linearIndex_mod hz'] at hm
  omega

/-- Two arrays of width 25w with the same bits at all coordinates are equal. -/
theorem bits_ext {w : Nat} {A A' : Bits} (hw : 0 < w) (hA : A.toNat < 2 ^ (25 * w)) (hA' : A'.toNat < 2 ^ (25 * w))
    (h : ∀ x y z, x < 5 → y < 5 → z < w → bitAt w A x y z = bitAt w A' x y z) : A = A' := by
  apply BitVec.eq_of_getLsbD_eq
  intro i _
  by_cases hi : i < 25 * w
  · obtain ⟨x, y, z, hx, hy, hz, rfl⟩ := linearIndex_surj hw hi
    exact h x y z hx hy hz
  · rw [(fits_iff A _).mp hA i (by omega), (fits_iff A' _).mp hA' i (by omega)]

/-! ### Building from a bit string -/

theorem getLsbD_bitsOf (vs : List Bool) (i : Nat) (hi : i < 1600) : (bitsOf vs).getLsbD i = vs.getD i false := by
  induction vs generalizing i with
  | nil => simp [bitsOf]
  | cons v vs ih =>
    rw [bitsOf, BitVec.getLsbD_or, BitVec.getLsbD_shiftLeft, BitVec.getLsbD_setWidth]
    cases i with
    | zero => simp
    | succ i => simp [hi, ih i (by omega)]

theorem getLsbD_outByte (A : Bits) (o i : Nat) :
    (outByte A o).getLsbD i = (decide (i < 8) && A.getLsbD (8 * o + i)) := by
  simp [outByte, BitVec.getLsbD_setWidth, BitVec.getLsbD_ushiftRight]

end Sys2Proof.Machine
end

