-- ==== Sys2Proof/Laws/State.lean ====
section
/-! SUPPORT. What each named update of the state does to each field: one lemma per field per update. -/

namespace Sys2Proof.Machine

/-! ### reply -/

@[simp] theorem State.reply_A (s : State) (r : Response) : (s.reply r).A = s.A := rfl
@[simp] theorem State.reply_B (s : State) (r : Response) : (s.reply r).B = s.B := rfl
@[simp] theorem State.reply_W (s : State) (r : Response) : (s.reply r).W = s.W := rfl
@[simp] theorem State.reply_L (s : State) (r : Response) : (s.reply r).L = s.L := rfl
@[simp] theorem State.reply_NR (s : State) (r : Response) : (s.reply r).NR = s.NR := rfl
@[simp] theorem State.reply_mode (s : State) (r : Response) : (s.reply r).mode = s.mode := rfl
@[simp] theorem State.reply_phase (s : State) (r : Response) : (s.reply r).phase = s.phase := rfl
@[simp] theorem State.reply_rate (s : State) (r : Response) : (s.reply r).rate = s.rate := rfl
@[simp] theorem State.reply_sfxLen (s : State) (r : Response) : (s.reply r).sfxLen = s.sfxLen := rfl
@[simp] theorem State.reply_sfx (s : State) (r : Response) : (s.reply r).sfx = s.sfx := rfl
@[simp] theorem State.reply_outBits (s : State) (r : Response) : (s.reply r).outBits = s.outBits := rfl
@[simp] theorem State.reply_profile (s : State) (r : Response) : (s.reply r).profile = s.profile := rfl
@[simp] theorem State.reply_msg (s : State) (r : Response) : (s.reply r).msg = s.msg := rfl
@[simp] theorem State.reply_sqOff (s : State) (r : Response) : (s.reply r).sqOff = s.sqOff := rfl
@[simp] theorem State.reply_errFlags (s : State) (r : Response) : (s.reply r).errFlags = s.errFlags := rfl
@[simp] theorem State.reply_cfg (s : State) (r : Response) : (s.reply r).cfg = s.cfg := rfl
@[simp] theorem State.reply_inputs (s : State) (r : Response) : (s.reply r).inputs = s.inputs := rfl
@[simp] theorem State.reply_responses (s : State) (r : Response) : (s.reply r).responses = s.responses ++ [r] := rfl

/-! ### withFlag -/

@[simp] theorem State.withFlag_A (s : State) (e : EngineError) : (s.withFlag e).A = s.A := rfl
@[simp] theorem State.withFlag_B (s : State) (e : EngineError) : (s.withFlag e).B = s.B := rfl
@[simp] theorem State.withFlag_W (s : State) (e : EngineError) : (s.withFlag e).W = s.W := rfl
@[simp] theorem State.withFlag_L (s : State) (e : EngineError) : (s.withFlag e).L = s.L := rfl
@[simp] theorem State.withFlag_NR (s : State) (e : EngineError) : (s.withFlag e).NR = s.NR := rfl
@[simp] theorem State.withFlag_mode (s : State) (e : EngineError) : (s.withFlag e).mode = s.mode := rfl
@[simp] theorem State.withFlag_phase (s : State) (e : EngineError) : (s.withFlag e).phase = s.phase := rfl
@[simp] theorem State.withFlag_rate (s : State) (e : EngineError) : (s.withFlag e).rate = s.rate := rfl
@[simp] theorem State.withFlag_sfxLen (s : State) (e : EngineError) : (s.withFlag e).sfxLen = s.sfxLen := rfl
@[simp] theorem State.withFlag_sfx (s : State) (e : EngineError) : (s.withFlag e).sfx = s.sfx := rfl
@[simp] theorem State.withFlag_outBits (s : State) (e : EngineError) : (s.withFlag e).outBits = s.outBits := rfl
@[simp] theorem State.withFlag_profile (s : State) (e : EngineError) : (s.withFlag e).profile = s.profile := rfl
@[simp] theorem State.withFlag_msg (s : State) (e : EngineError) : (s.withFlag e).msg = s.msg := rfl
@[simp] theorem State.withFlag_sqOff (s : State) (e : EngineError) : (s.withFlag e).sqOff = s.sqOff := rfl
@[simp] theorem State.withFlag_errFlags (s : State) (e : EngineError) : (s.withFlag e).errFlags = setFlag e s.errFlags := rfl
@[simp] theorem State.withFlag_cfg (s : State) (e : EngineError) : (s.withFlag e).cfg = s.cfg := rfl
@[simp] theorem State.withFlag_inputs (s : State) (e : EngineError) : (s.withFlag e).inputs = s.inputs := rfl
@[simp] theorem State.withFlag_responses (s : State) (e : EngineError) : (s.withFlag e).responses = s.responses := rfl

/-! ### powerOn -/

@[simp] theorem State.powerOn_A (s : State) : (s.powerOn).A = 0#1600 := rfl
@[simp] theorem State.powerOn_B (s : State) : (s.powerOn).B = 0#11 := rfl
@[simp] theorem State.powerOn_W (s : State) : (s.powerOn).W = 0#7 := rfl
@[simp] theorem State.powerOn_L (s : State) : (s.powerOn).L = 0#3 := rfl
@[simp] theorem State.powerOn_NR (s : State) : (s.powerOn).NR = 0#8 := rfl
@[simp] theorem State.powerOn_mode (s : State) : (s.powerOn).mode = .idle := rfl
@[simp] theorem State.powerOn_phase (s : State) : (s.powerOn).phase = .none := rfl
@[simp] theorem State.powerOn_rate (s : State) : (s.powerOn).rate = 0#11 := rfl
@[simp] theorem State.powerOn_sfxLen (s : State) : (s.powerOn).sfxLen = 0#3 := rfl
@[simp] theorem State.powerOn_sfx (s : State) : (s.powerOn).sfx = 0#7 := rfl
@[simp] theorem State.powerOn_outBits (s : State) : (s.powerOn).outBits = 0#10 := rfl
@[simp] theorem State.powerOn_profile (s : State) : (s.powerOn).profile = 0#3 := rfl
@[simp] theorem State.powerOn_msg (s : State) : (s.powerOn).msg = [] := rfl
@[simp] theorem State.powerOn_sqOff (s : State) : (s.powerOn).sqOff = 0#8 := rfl
@[simp] theorem State.powerOn_errFlags (s : State) : (s.powerOn).errFlags = 0#6 := rfl
@[simp] theorem State.powerOn_cfg (s : State) : (s.powerOn).cfg = s.cfg := rfl
@[simp] theorem State.powerOn_inputs (s : State) : (s.powerOn).inputs = s.inputs := rfl
@[simp] theorem State.powerOn_responses (s : State) : (s.powerOn).responses = s.responses := rfl

/-! ### installPerm -/

@[simp] theorem State.installPerm_A (s : State) (b : BitVec 11) (nr : BitVec 8) : (s.installPerm b nr).A = 0#1600 := rfl
@[simp] theorem State.installPerm_B (s : State) (b : BitVec 11) (nr : BitVec 8) : (s.installPerm b nr).B = b := rfl
@[simp] theorem State.installPerm_W (s : State) (b : BitVec 11) (nr : BitVec 8) : (s.installPerm b nr).W = BitVec.ofNat 7 (laneLength b) := rfl
@[simp] theorem State.installPerm_L (s : State) (b : BitVec 11) (nr : BitVec 8) : (s.installPerm b nr).L = BitVec.ofNat 3 (laneLog b) := rfl
@[simp] theorem State.installPerm_NR (s : State) (b : BitVec 11) (nr : BitVec 8) : (s.installPerm b nr).NR = nr := rfl
@[simp] theorem State.installPerm_mode (s : State) (b : BitVec 11) (nr : BitVec 8) : (s.installPerm b nr).mode = .perm := rfl
@[simp] theorem State.installPerm_phase (s : State) (b : BitVec 11) (nr : BitVec 8) : (s.installPerm b nr).phase = .none := rfl
@[simp] theorem State.installPerm_rate (s : State) (b : BitVec 11) (nr : BitVec 8) : (s.installPerm b nr).rate = 0#11 := rfl
@[simp] theorem State.installPerm_sfxLen (s : State) (b : BitVec 11) (nr : BitVec 8) : (s.installPerm b nr).sfxLen = 0#3 := rfl
@[simp] theorem State.installPerm_sfx (s : State) (b : BitVec 11) (nr : BitVec 8) : (s.installPerm b nr).sfx = 0#7 := rfl
@[simp] theorem State.installPerm_outBits (s : State) (b : BitVec 11) (nr : BitVec 8) : (s.installPerm b nr).outBits = 0#10 := rfl
@[simp] theorem State.installPerm_profile (s : State) (b : BitVec 11) (nr : BitVec 8) : (s.installPerm b nr).profile = 0#3 := rfl
@[simp] theorem State.installPerm_msg (s : State) (b : BitVec 11) (nr : BitVec 8) : (s.installPerm b nr).msg = [] := rfl
@[simp] theorem State.installPerm_sqOff (s : State) (b : BitVec 11) (nr : BitVec 8) : (s.installPerm b nr).sqOff = 0#8 := rfl
@[simp] theorem State.installPerm_errFlags (s : State) (b : BitVec 11) (nr : BitVec 8) : (s.installPerm b nr).errFlags = s.errFlags := rfl
@[simp] theorem State.installPerm_cfg (s : State) (b : BitVec 11) (nr : BitVec 8) : (s.installPerm b nr).cfg = s.cfg := rfl
@[simp] theorem State.installPerm_inputs (s : State) (b : BitVec 11) (nr : BitVec 8) : (s.installPerm b nr).inputs = s.inputs := rfl
@[simp] theorem State.installPerm_responses (s : State) (b : BitVec 11) (nr : BitVec 8) : (s.installPerm b nr).responses = s.responses := rfl

/-! ### installSponge -/

@[simp] theorem State.installSponge_A (s : State) (row : ProfileRow) (p : BitVec 3) : (s.installSponge row p).A = 0#1600 := rfl
@[simp] theorem State.installSponge_B (s : State) (row : ProfileRow) (p : BitVec 3) : (s.installSponge row p).B = 1600#11 := rfl
@[simp] theorem State.installSponge_W (s : State) (row : ProfileRow) (p : BitVec 3) : (s.installSponge row p).W = 64#7 := rfl
@[simp] theorem State.installSponge_L (s : State) (row : ProfileRow) (p : BitVec 3) : (s.installSponge row p).L = 6#3 := rfl
@[simp] theorem State.installSponge_NR (s : State) (row : ProfileRow) (p : BitVec 3) : (s.installSponge row p).NR = 24#8 := rfl
@[simp] theorem State.installSponge_mode (s : State) (row : ProfileRow) (p : BitVec 3) : (s.installSponge row p).mode = .sponge := rfl
@[simp] theorem State.installSponge_phase (s : State) (row : ProfileRow) (p : BitVec 3) : (s.installSponge row p).phase = .absorbing := rfl
@[simp] theorem State.installSponge_rate (s : State) (row : ProfileRow) (p : BitVec 3) : (s.installSponge row p).rate = row.rate := rfl
@[simp] theorem State.installSponge_sfxLen (s : State) (row : ProfileRow) (p : BitVec 3) : (s.installSponge row p).sfxLen = row.sfxLen := rfl
@[simp] theorem State.installSponge_sfx (s : State) (row : ProfileRow) (p : BitVec 3) : (s.installSponge row p).sfx = row.sfx := rfl
@[simp] theorem State.installSponge_outBits (s : State) (row : ProfileRow) (p : BitVec 3) : (s.installSponge row p).outBits = row.outBits := rfl
@[simp] theorem State.installSponge_profile (s : State) (row : ProfileRow) (p : BitVec 3) : (s.installSponge row p).profile = p := rfl
@[simp] theorem State.installSponge_msg (s : State) (row : ProfileRow) (p : BitVec 3) : (s.installSponge row p).msg = [] := rfl
@[simp] theorem State.installSponge_sqOff (s : State) (row : ProfileRow) (p : BitVec 3) : (s.installSponge row p).sqOff = 0#8 := rfl
@[simp] theorem State.installSponge_errFlags (s : State) (row : ProfileRow) (p : BitVec 3) : (s.installSponge row p).errFlags = s.errFlags := rfl
@[simp] theorem State.installSponge_cfg (s : State) (row : ProfileRow) (p : BitVec 3) : (s.installSponge row p).cfg = s.cfg := rfl
@[simp] theorem State.installSponge_inputs (s : State) (row : ProfileRow) (p : BitVec 3) : (s.installSponge row p).inputs = s.inputs := rfl
@[simp] theorem State.installSponge_responses (s : State) (row : ProfileRow) (p : BitVec 3) : (s.installSponge row p).responses = s.responses := rfl

/-! ### withArray -/

@[simp] theorem State.withArray_A (s : State) (A : Bits) : (s.withArray A).A = A := rfl
@[simp] theorem State.withArray_B (s : State) (A : Bits) : (s.withArray A).B = s.B := rfl
@[simp] theorem State.withArray_W (s : State) (A : Bits) : (s.withArray A).W = s.W := rfl
@[simp] theorem State.withArray_L (s : State) (A : Bits) : (s.withArray A).L = s.L := rfl
@[simp] theorem State.withArray_NR (s : State) (A : Bits) : (s.withArray A).NR = s.NR := rfl
@[simp] theorem State.withArray_mode (s : State) (A : Bits) : (s.withArray A).mode = s.mode := rfl
@[simp] theorem State.withArray_phase (s : State) (A : Bits) : (s.withArray A).phase = s.phase := rfl
@[simp] theorem State.withArray_rate (s : State) (A : Bits) : (s.withArray A).rate = s.rate := rfl
@[simp] theorem State.withArray_sfxLen (s : State) (A : Bits) : (s.withArray A).sfxLen = s.sfxLen := rfl
@[simp] theorem State.withArray_sfx (s : State) (A : Bits) : (s.withArray A).sfx = s.sfx := rfl
@[simp] theorem State.withArray_outBits (s : State) (A : Bits) : (s.withArray A).outBits = s.outBits := rfl
@[simp] theorem State.withArray_profile (s : State) (A : Bits) : (s.withArray A).profile = s.profile := rfl
@[simp] theorem State.withArray_msg (s : State) (A : Bits) : (s.withArray A).msg = s.msg := rfl
@[simp] theorem State.withArray_sqOff (s : State) (A : Bits) : (s.withArray A).sqOff = s.sqOff := rfl
@[simp] theorem State.withArray_errFlags (s : State) (A : Bits) : (s.withArray A).errFlags = s.errFlags := rfl
@[simp] theorem State.withArray_cfg (s : State) (A : Bits) : (s.withArray A).cfg = s.cfg := rfl
@[simp] theorem State.withArray_inputs (s : State) (A : Bits) : (s.withArray A).inputs = s.inputs := rfl
@[simp] theorem State.withArray_responses (s : State) (A : Bits) : (s.withArray A).responses = s.responses := rfl

/-! ### writeBit -/

@[simp] theorem State.writeBit_A (s : State) (x y z : Nat) (v : Bool) : (s.writeBit x y z v).A = setBit s.A (linearIndex s.W.toNat x y z) v := rfl
@[simp] theorem State.writeBit_B (s : State) (x y z : Nat) (v : Bool) : (s.writeBit x y z v).B = s.B := rfl
@[simp] theorem State.writeBit_W (s : State) (x y z : Nat) (v : Bool) : (s.writeBit x y z v).W = s.W := rfl
@[simp] theorem State.writeBit_L (s : State) (x y z : Nat) (v : Bool) : (s.writeBit x y z v).L = s.L := rfl
@[simp] theorem State.writeBit_NR (s : State) (x y z : Nat) (v : Bool) : (s.writeBit x y z v).NR = s.NR := rfl
@[simp] theorem State.writeBit_mode (s : State) (x y z : Nat) (v : Bool) : (s.writeBit x y z v).mode = s.mode := rfl
@[simp] theorem State.writeBit_phase (s : State) (x y z : Nat) (v : Bool) : (s.writeBit x y z v).phase = s.phase := rfl
@[simp] theorem State.writeBit_rate (s : State) (x y z : Nat) (v : Bool) : (s.writeBit x y z v).rate = s.rate := rfl
@[simp] theorem State.writeBit_sfxLen (s : State) (x y z : Nat) (v : Bool) : (s.writeBit x y z v).sfxLen = s.sfxLen := rfl
@[simp] theorem State.writeBit_sfx (s : State) (x y z : Nat) (v : Bool) : (s.writeBit x y z v).sfx = s.sfx := rfl
@[simp] theorem State.writeBit_outBits (s : State) (x y z : Nat) (v : Bool) : (s.writeBit x y z v).outBits = s.outBits := rfl
@[simp] theorem State.writeBit_profile (s : State) (x y z : Nat) (v : Bool) : (s.writeBit x y z v).profile = s.profile := rfl
@[simp] theorem State.writeBit_msg (s : State) (x y z : Nat) (v : Bool) : (s.writeBit x y z v).msg = s.msg := rfl
@[simp] theorem State.writeBit_sqOff (s : State) (x y z : Nat) (v : Bool) : (s.writeBit x y z v).sqOff = s.sqOff := rfl
@[simp] theorem State.writeBit_errFlags (s : State) (x y z : Nat) (v : Bool) : (s.writeBit x y z v).errFlags = s.errFlags := rfl
@[simp] theorem State.writeBit_cfg (s : State) (x y z : Nat) (v : Bool) : (s.writeBit x y z v).cfg = s.cfg := rfl
@[simp] theorem State.writeBit_inputs (s : State) (x y z : Nat) (v : Bool) : (s.writeBit x y z v).inputs = s.inputs := rfl
@[simp] theorem State.writeBit_responses (s : State) (x y z : Nat) (v : Bool) : (s.writeBit x y z v).responses = s.responses := rfl

/-! ### append -/

@[simp] theorem State.append_A (s : State) (v : List Byte) : (s.append v).A = s.A := rfl
@[simp] theorem State.append_B (s : State) (v : List Byte) : (s.append v).B = s.B := rfl
@[simp] theorem State.append_W (s : State) (v : List Byte) : (s.append v).W = s.W := rfl
@[simp] theorem State.append_L (s : State) (v : List Byte) : (s.append v).L = s.L := rfl
@[simp] theorem State.append_NR (s : State) (v : List Byte) : (s.append v).NR = s.NR := rfl
@[simp] theorem State.append_mode (s : State) (v : List Byte) : (s.append v).mode = s.mode := rfl
@[simp] theorem State.append_phase (s : State) (v : List Byte) : (s.append v).phase = s.phase := rfl
@[simp] theorem State.append_rate (s : State) (v : List Byte) : (s.append v).rate = s.rate := rfl
@[simp] theorem State.append_sfxLen (s : State) (v : List Byte) : (s.append v).sfxLen = s.sfxLen := rfl
@[simp] theorem State.append_sfx (s : State) (v : List Byte) : (s.append v).sfx = s.sfx := rfl
@[simp] theorem State.append_outBits (s : State) (v : List Byte) : (s.append v).outBits = s.outBits := rfl
@[simp] theorem State.append_profile (s : State) (v : List Byte) : (s.append v).profile = s.profile := rfl
@[simp] theorem State.append_msg (s : State) (v : List Byte) : (s.append v).msg = s.msg ++ v := rfl
@[simp] theorem State.append_sqOff (s : State) (v : List Byte) : (s.append v).sqOff = s.sqOff := rfl
@[simp] theorem State.append_errFlags (s : State) (v : List Byte) : (s.append v).errFlags = s.errFlags := rfl
@[simp] theorem State.append_cfg (s : State) (v : List Byte) : (s.append v).cfg = s.cfg := rfl
@[simp] theorem State.append_inputs (s : State) (v : List Byte) : (s.append v).inputs = s.inputs := rfl
@[simp] theorem State.append_responses (s : State) (v : List Byte) : (s.append v).responses = s.responses := rfl

/-! ### finalize -/

@[simp] theorem State.finalize_A (s : State) : (s.finalize).A = finalArray s := rfl
@[simp] theorem State.finalize_B (s : State) : (s.finalize).B = s.B := rfl
@[simp] theorem State.finalize_W (s : State) : (s.finalize).W = s.W := rfl
@[simp] theorem State.finalize_L (s : State) : (s.finalize).L = s.L := rfl
@[simp] theorem State.finalize_NR (s : State) : (s.finalize).NR = s.NR := rfl
@[simp] theorem State.finalize_mode (s : State) : (s.finalize).mode = s.mode := rfl
@[simp] theorem State.finalize_phase (s : State) : (s.finalize).phase = .squeezing := rfl
@[simp] theorem State.finalize_rate (s : State) : (s.finalize).rate = s.rate := rfl
@[simp] theorem State.finalize_sfxLen (s : State) : (s.finalize).sfxLen = s.sfxLen := rfl
@[simp] theorem State.finalize_sfx (s : State) : (s.finalize).sfx = s.sfx := rfl
@[simp] theorem State.finalize_outBits (s : State) : (s.finalize).outBits = s.outBits := rfl
@[simp] theorem State.finalize_profile (s : State) : (s.finalize).profile = s.profile := rfl
@[simp] theorem State.finalize_msg (s : State) : (s.finalize).msg = [] := rfl
@[simp] theorem State.finalize_sqOff (s : State) : (s.finalize).sqOff = 0#8 := rfl
@[simp] theorem State.finalize_errFlags (s : State) : (s.finalize).errFlags = s.errFlags := rfl
@[simp] theorem State.finalize_cfg (s : State) : (s.finalize).cfg = s.cfg := rfl
@[simp] theorem State.finalize_inputs (s : State) : (s.finalize).inputs = s.inputs := rfl
@[simp] theorem State.finalize_responses (s : State) : (s.finalize).responses = s.responses := rfl

/-! ### absorbedEarly -/

@[simp] theorem State.absorbedEarly_A (s : State) (n : Nat) :
    (s.absorbedEarly n).A = absorbBlocks s.rate.toNat n (messageBits s.msg) s.A := rfl
@[simp] theorem State.absorbedEarly_B (s : State) (n : Nat) : (s.absorbedEarly n).B = s.B := rfl
@[simp] theorem State.absorbedEarly_W (s : State) (n : Nat) : (s.absorbedEarly n).W = s.W := rfl
@[simp] theorem State.absorbedEarly_L (s : State) (n : Nat) : (s.absorbedEarly n).L = s.L := rfl
@[simp] theorem State.absorbedEarly_NR (s : State) (n : Nat) : (s.absorbedEarly n).NR = s.NR := rfl
@[simp] theorem State.absorbedEarly_mode (s : State) (n : Nat) : (s.absorbedEarly n).mode = s.mode := rfl
@[simp] theorem State.absorbedEarly_phase (s : State) (n : Nat) : (s.absorbedEarly n).phase = s.phase := rfl
@[simp] theorem State.absorbedEarly_rate (s : State) (n : Nat) : (s.absorbedEarly n).rate = s.rate := rfl
@[simp] theorem State.absorbedEarly_sfxLen (s : State) (n : Nat) : (s.absorbedEarly n).sfxLen = s.sfxLen := rfl
@[simp] theorem State.absorbedEarly_sfx (s : State) (n : Nat) : (s.absorbedEarly n).sfx = s.sfx := rfl
@[simp] theorem State.absorbedEarly_outBits (s : State) (n : Nat) : (s.absorbedEarly n).outBits = s.outBits := rfl
@[simp] theorem State.absorbedEarly_profile (s : State) (n : Nat) : (s.absorbedEarly n).profile = s.profile := rfl
@[simp] theorem State.absorbedEarly_msg (s : State) (n : Nat) :
    (s.absorbedEarly n).msg = s.msg.drop (n * (s.rate.toNat / 8)) := rfl
@[simp] theorem State.absorbedEarly_sqOff (s : State) (n : Nat) : (s.absorbedEarly n).sqOff = s.sqOff := rfl
@[simp] theorem State.absorbedEarly_errFlags (s : State) (n : Nat) : (s.absorbedEarly n).errFlags = s.errFlags := rfl
@[simp] theorem State.absorbedEarly_cfg (s : State) (n : Nat) : (s.absorbedEarly n).cfg = s.cfg := rfl
@[simp] theorem State.absorbedEarly_inputs (s : State) (n : Nat) : (s.absorbedEarly n).inputs = s.inputs := rfl
@[simp] theorem State.absorbedEarly_responses (s : State) (n : Nat) : (s.absorbedEarly n).responses = s.responses := rfl

/-! ### withPos -/

@[simp] theorem State.withPos_A (s : State) (p : SqueezePos) : (s.withPos p).A = p.A := rfl
@[simp] theorem State.withPos_B (s : State) (p : SqueezePos) : (s.withPos p).B = s.B := rfl
@[simp] theorem State.withPos_W (s : State) (p : SqueezePos) : (s.withPos p).W = s.W := rfl
@[simp] theorem State.withPos_L (s : State) (p : SqueezePos) : (s.withPos p).L = s.L := rfl
@[simp] theorem State.withPos_NR (s : State) (p : SqueezePos) : (s.withPos p).NR = s.NR := rfl
@[simp] theorem State.withPos_mode (s : State) (p : SqueezePos) : (s.withPos p).mode = s.mode := rfl
@[simp] theorem State.withPos_phase (s : State) (p : SqueezePos) : (s.withPos p).phase = s.phase := rfl
@[simp] theorem State.withPos_rate (s : State) (p : SqueezePos) : (s.withPos p).rate = s.rate := rfl
@[simp] theorem State.withPos_sfxLen (s : State) (p : SqueezePos) : (s.withPos p).sfxLen = s.sfxLen := rfl
@[simp] theorem State.withPos_sfx (s : State) (p : SqueezePos) : (s.withPos p).sfx = s.sfx := rfl
@[simp] theorem State.withPos_outBits (s : State) (p : SqueezePos) : (s.withPos p).outBits = s.outBits := rfl
@[simp] theorem State.withPos_profile (s : State) (p : SqueezePos) : (s.withPos p).profile = s.profile := rfl
@[simp] theorem State.withPos_msg (s : State) (p : SqueezePos) : (s.withPos p).msg = s.msg := rfl
@[simp] theorem State.withPos_sqOff (s : State) (p : SqueezePos) : (s.withPos p).sqOff = p.off := rfl
@[simp] theorem State.withPos_errFlags (s : State) (p : SqueezePos) : (s.withPos p).errFlags = s.errFlags := rfl
@[simp] theorem State.withPos_cfg (s : State) (p : SqueezePos) : (s.withPos p).cfg = s.cfg := rfl
@[simp] theorem State.withPos_inputs (s : State) (p : SqueezePos) : (s.withPos p).inputs = s.inputs := rfl
@[simp] theorem State.withPos_responses (s : State) (p : SqueezePos) : (s.withPos p).responses = s.responses := rfl

/-! ### takeInput -/

@[simp] theorem State.takeInput_A (s : State) (rest : List HostInput) : (s.takeInput rest).A = s.A := rfl
@[simp] theorem State.takeInput_B (s : State) (rest : List HostInput) : (s.takeInput rest).B = s.B := rfl
@[simp] theorem State.takeInput_W (s : State) (rest : List HostInput) : (s.takeInput rest).W = s.W := rfl
@[simp] theorem State.takeInput_L (s : State) (rest : List HostInput) : (s.takeInput rest).L = s.L := rfl
@[simp] theorem State.takeInput_NR (s : State) (rest : List HostInput) : (s.takeInput rest).NR = s.NR := rfl
@[simp] theorem State.takeInput_mode (s : State) (rest : List HostInput) : (s.takeInput rest).mode = s.mode := rfl
@[simp] theorem State.takeInput_phase (s : State) (rest : List HostInput) : (s.takeInput rest).phase = s.phase := rfl
@[simp] theorem State.takeInput_rate (s : State) (rest : List HostInput) : (s.takeInput rest).rate = s.rate := rfl
@[simp] theorem State.takeInput_sfxLen (s : State) (rest : List HostInput) : (s.takeInput rest).sfxLen = s.sfxLen := rfl
@[simp] theorem State.takeInput_sfx (s : State) (rest : List HostInput) : (s.takeInput rest).sfx = s.sfx := rfl
@[simp] theorem State.takeInput_outBits (s : State) (rest : List HostInput) : (s.takeInput rest).outBits = s.outBits := rfl
@[simp] theorem State.takeInput_profile (s : State) (rest : List HostInput) : (s.takeInput rest).profile = s.profile := rfl
@[simp] theorem State.takeInput_msg (s : State) (rest : List HostInput) : (s.takeInput rest).msg = s.msg := rfl
@[simp] theorem State.takeInput_sqOff (s : State) (rest : List HostInput) : (s.takeInput rest).sqOff = s.sqOff := rfl
@[simp] theorem State.takeInput_errFlags (s : State) (rest : List HostInput) : (s.takeInput rest).errFlags = s.errFlags := rfl
@[simp] theorem State.takeInput_cfg (s : State) (rest : List HostInput) : (s.takeInput rest).cfg = s.cfg := rfl
@[simp] theorem State.takeInput_inputs (s : State) (rest : List HostInput) : (s.takeInput rest).inputs = rest := rfl
@[simp] theorem State.takeInput_responses (s : State) (rest : List HostInput) : (s.takeInput rest).responses = s.responses := rfl

/-! ### offer -/

@[simp] theorem State.offer_A (s : State) (w : Word) : (s.offer w).A = s.A := rfl
@[simp] theorem State.offer_B (s : State) (w : Word) : (s.offer w).B = s.B := rfl
@[simp] theorem State.offer_W (s : State) (w : Word) : (s.offer w).W = s.W := rfl
@[simp] theorem State.offer_L (s : State) (w : Word) : (s.offer w).L = s.L := rfl
@[simp] theorem State.offer_NR (s : State) (w : Word) : (s.offer w).NR = s.NR := rfl
@[simp] theorem State.offer_mode (s : State) (w : Word) : (s.offer w).mode = s.mode := rfl
@[simp] theorem State.offer_phase (s : State) (w : Word) : (s.offer w).phase = s.phase := rfl
@[simp] theorem State.offer_rate (s : State) (w : Word) : (s.offer w).rate = s.rate := rfl
@[simp] theorem State.offer_sfxLen (s : State) (w : Word) : (s.offer w).sfxLen = s.sfxLen := rfl
@[simp] theorem State.offer_sfx (s : State) (w : Word) : (s.offer w).sfx = s.sfx := rfl
@[simp] theorem State.offer_outBits (s : State) (w : Word) : (s.offer w).outBits = s.outBits := rfl
@[simp] theorem State.offer_profile (s : State) (w : Word) : (s.offer w).profile = s.profile := rfl
@[simp] theorem State.offer_msg (s : State) (w : Word) : (s.offer w).msg = s.msg := rfl
@[simp] theorem State.offer_sqOff (s : State) (w : Word) : (s.offer w).sqOff = s.sqOff := rfl
@[simp] theorem State.offer_errFlags (s : State) (w : Word) : (s.offer w).errFlags = s.errFlags := rfl
@[simp] theorem State.offer_cfg (s : State) (w : Word) : (s.offer w).cfg = s.cfg := rfl
@[simp] theorem State.offer_inputs (s : State) (w : Word) : (s.offer w).inputs = .command w :: s.inputs := rfl
@[simp] theorem State.offer_responses (s : State) (w : Word) : (s.offer w).responses = s.responses := rfl

end Sys2Proof.Machine
end

