-- ==== Sys2Proof/Laws/Ops.lean ====
section
/-! SUPPORT. What each shared operation can do, once: the checks, error delivery, the permutation commands' shape, a
squeeze, a command, a step. Later proofs cite these instead of unfolding. -/

namespace Sys2Proof.Machine

/-! ### Errors -/

/-- Raising an error sets its sticky flag, returns its code, and changes nothing else (60_exceptions.md R163). -/
theorem raise_eq (e : EngineError) (s : State) : raise e s = .next (s.failedWith (errorCode e).toNat) := by
  cases e <;> rfl

/-! ### Checks -/

@[simp] theorem errorUnless_eq_none (ok : Bool) (e : EngineError) : errorUnless ok e = none ↔ ok = true := by
  cases ok <;> simp [errorUnless]

@[simp] theorem errorUnless_eq_some (ok : Bool) (e e' : EngineError) :
    errorUnless ok e = some e' ↔ ok = false ∧ e = e' := by
  cases ok <;> simp [errorUnless]

@[simp] theorem permOnly_eq_none (s : State) : permOnly s = none ↔ s.mode = .perm := by
  unfold permOnly
  cases s.mode <;> simp

theorem permOnly_of_ne (s : State) (h : s.mode ≠ .perm) : permOnly s = some .illegalCommand := by
  unfold permOnly
  cases hm : s.mode <;> simp_all

@[simp] theorem spongeOnly_eq_none (s : State) : spongeOnly s = none ↔ s.mode = .sponge ∧ s.phase ≠ .none := by
  unfold spongeOnly
  cases s.mode <;> cases s.phase <;> simp

theorem spongeOnly_of_ne (s : State) (h : s.mode ≠ .sponge) : spongeOnly s = some .illegalCommand := by
  unfold spongeOnly
  cases hm : s.mode <;> simp_all

@[simp] theorem absorbingOnly_eq_none (s : State) :
    absorbingOnly s = none ↔ s.mode = .sponge ∧ s.phase = .absorbing := by
  unfold absorbingOnly
  cases s.mode <;> cases s.phase <;> simp

theorem absorbingOnly_squeezing (s : State) (hm : s.mode = .sponge) (hp : s.phase = .squeezing) :
    absorbingOnly s = some .spongeMisuse := by
  simp [absorbingOnly, hm, hp]

theorem absorbingOnly_of_ne (s : State) (h : s.mode ≠ .sponge) : absorbingOnly s = some .illegalCommand := by
  unfold absorbingOnly
  cases hm : s.mode <;> simp_all

@[simp] theorem fixedOutputOnly_eq_none (s : State) :
    fixedOutputOnly s = none ↔ s.outBits ≠ 0#10 ∧ s.mode = .sponge ∧ s.phase ≠ .none := by
  unfold fixedOutputOnly
  split <;> simp_all

theorem widthCheck_eq_none (b : BitVec 11) : widthCheck b = none ↔ CandidateWidth b.toNat := by
  simp [widthCheck, validWidth]

theorem boundsCheck_eq_none (s : State) (x y : BitVec 3) (z : BitVec 7) :
    boundsCheck s x y z = none ↔ x.toNat < 5 ∧ y.toNat < 5 ∧ z.toNat < s.W.toNat := by
  simp [boundsCheck, inRange, and_assoc]

theorem rateCheck_eq_none (rate : BitVec 11) :
    rateCheck rate = none ↔ 0 < rate.toNat ∧ rate.toNat < 1600 ∧ rate.toNat % 8 = 0 := by
  simp [rateCheck, validRate, and_assoc]

theorem capacityCheck_eq_none (s : State) (cnt : BitVec 2) :
    capacityCheck s cnt = none ↔ fitsCap s.cfg (s.msg.length + cnt.toNat) = true := by
  simp [capacityCheck]

/-! ### Construction -/

/-- The lane length and its logarithm at each of the seven widths (40_bitstate_config.md R81). -/
theorem candidate_cases {b : Nat} (h : CandidateWidth b) : ∃ l, l ≤ 6 ∧ b = 25 * 2 ^ l ∧ b / 25 = 2 ^ l := by
  simp only [CandidateWidth, List.mem_cons, List.not_mem_nil, or_false] at h
  rcases h with h | h | h | h | h | h | h <;> subst h
  exacts [⟨0, by decide⟩, ⟨1, by decide⟩, ⟨2, by decide⟩, ⟨3, by decide⟩, ⟨4, by decide⟩, ⟨5, by decide⟩, ⟨6, by decide⟩]

theorem laneLength_of_candidate {b : BitVec 11} {l : Nat} (h : b.toNat / 25 = 2 ^ l) : laneLength b = 2 ^ l := h

theorem laneLog_of_candidate {b : BitVec 11} {l : Nat} (h : b.toNat / 25 = 2 ^ l) : laneLog b = l := by
  rw [laneLog, laneLength_of_candidate h, Nat.log2_two_pow]

/-! ### The message buffer -/

/-- Appending keeps the form when the longer message fits (10_state.md R26). -/
theorem Memory.wf_append {cfg : Config} {msg v : List Byte} (h : fitsCap cfg (msg.length + v.length) = true) :
    Memory.wf cfg (msg ++ v) = true := by
  rwa [Memory.wf, List.length_append]

/-- The empty buffer has the form. -/
@[simp] theorem Memory.wf_nil (cfg : Config) : Memory.wf cfg [] = true := by
  unfold Memory.wf fitsCap
  split <;> simp

/-- The buffer of the reset state has the form. -/
theorem Memory.wf_reset : Memory.wf State.reset.cfg State.reset.msg = true := Memory.wf_nil _

/-- The bytes of a well-formed ABSORB are as many as its count says. -/
theorem absorbBytes_length (cnt : BitVec 2) (d0 d1 d2 : Byte) : (absorbBytes cnt d0 d1 d2).length = cnt.toNat := by
  have := cnt.isLt
  simp [absorbBytes]
  omega

theorem Memory.read_append_left {msg v : List Byte} {a : Nat} (h : a < msg.length) :
    Memory.read (msg ++ v) a = Memory.read msg a := by
  simp [Memory.read, List.getElem?_append_left h]

theorem Memory.read_append_right {msg v : List Byte} {a : Nat} (h : msg.length ≤ a) :
    Memory.read (msg ++ v) a = v[a - msg.length]? := by
  simp [Memory.read, List.getElem?_append_right h]

/-! ### Commands -/

/-- A permutation command in Perm mode changes the array only. -/
theorem permuteBy_perm (g : State → Bits) (s : State) (h : s.mode = .perm) :
    permuteBy g s = respond 0#32 [] (s.withArray (g s)) := by
  simp [permuteBy, (permOnly_eq_none s).mpr h]

/-- A permutation command outside Perm mode raises IllegalCommand. -/
theorem permuteBy_other (g : State → Bits) (s : State) (h : s.mode ≠ .perm) :
    permuteBy g s = raise .illegalCommand s := by
  simp [permuteBy, permOnly_of_ne s h]

/-- A squeeze finalizes first exactly in the Absorbing phase (42_sponge.md R131). -/
theorem beginSqueeze_absorbing (s : State) (h : s.phase = .absorbing) : s.beginSqueeze = s.finalize := by
  simp [State.beginSqueeze, h]

theorem beginSqueeze_squeezing (s : State) (h : s.phase = .squeezing) : s.beginSqueeze = s := by
  simp [State.beginSqueeze, h]

/-- The array a permutation command leaves in Perm mode, for the seven commands. -/
def permuted (s : State) : Instr → Option Bits
  | .theta => some (theta s.W.toNat s.A)
  | .rho => some (rho s.W.toNat s.A)
  | .pi => some (pi s.W.toNat s.A)
  | .chi => some (chi s.W.toNat s.A)
  | .iota ir => some (iota s.W.toNat s.L.toNat ir.toNat s.A)
  | .round ir => some (rnd s.W.toNat s.L.toNat ir.toNat s.A)
  | .permute => some (keccakP s.W.toNat s.L.toNat s.NR.toNat s.A)
  | _ => none

/-- The seven permutation commands: in Perm mode the array changes, elsewhere IllegalCommand (41_permutation.md section 5). -/
theorem exec_permuted {i : Instr} {s : State} {A : Bits} (h : permuted s i = some A) :
    (s.mode = .perm → exec i s = respond 0#32 [] (s.withArray A)) ∧
    (s.mode ≠ .perm → exec i s = raise .illegalCommand s) := by
  cases i <;> simp only [permuted, Option.some.injEq, reduceCtorEq] at h <;> subst h <;>
    simp only [exec, execTheta, execRho, execPi, execChi, execIota, execRound, execPermute] <;>
    exact ⟨fun hm => permuteBy_perm _ s hm, fun hm => permuteBy_other _ s hm⟩

/-- Everything one command can do: raise an error, or succeed in one of these ways. -/
theorem exec_cases (i : Instr) (s : State) :
    (∃ e, exec i s = raise e s) ∨
    (i = .reset ∧ exec i s = respond 0#32 [] s.powerOn) ∨
    (∃ val, (i = .rdstat ∨ ∃ x y z, i = .bget x y z) ∧ exec i s = respond val [] s) ∨
    (∃ b nr, CandidateWidth b.toNat ∧ ((i = .fnew b ∧ nr = fRounds b) ∨ i = .pnew b nr) ∧
      exec i s = respond 0#32 [] (s.installPerm b nr)) ∨
    (∃ x y z v, i = .bset x y z v ∧ s.mode = .perm ∧ x.toNat < 5 ∧ y.toNat < 5 ∧ z.toNat < s.W.toNat ∧
      exec i s = respond 0#32 [] (s.writeBit x.toNat y.toNat z.toNat v)) ∨
    (∃ A, permuted s i = some A ∧ s.mode = .perm ∧ exec i s = respond 0#32 [] (s.withArray A)) ∨
    (∃ p row, i = .snew p ∧ profileRow p = some row ∧ exec i s = respond 0#32 [] (s.installSponge row p)) ∨
    (∃ rate sfxlen sfx, i = .snewc rate sfxlen sfx ∧ validRate rate = true ∧ WellFormed.suffixFits sfxlen sfx = true ∧
      exec i s = respond 0#32 [] (s.installSponge ⟨rate, sfxlen, sfx, 0#10⟩ 7#3)) ∨
    (∃ cnt d0 d1 d2, i = .absorb cnt d0 d1 d2 ∧ s.mode = .sponge ∧ s.phase = .absorbing ∧
      fitsCap s.cfg (s.msg.length + cnt.toNat) = true ∧
      exec i s = respond 0#32 [] (s.append (absorbBytes cnt d0 d1 d2))) ∨
    (∃ n, ((∃ m, i = .squeeze m ∧ n = m.toNat) ∨ (i = .digest ∧ n = s.outBits.toNat / 8)) ∧ s.mode = .sponge ∧
      s.phase ≠ .none ∧ exec i s = squeezeEffect n s) := by
  cases i with
  | reset => exact .inr (.inl ⟨rfl, rfl⟩)
  | rdstat => exact .inr (.inr (.inl ⟨_, .inl rfl, rfl⟩))
  | fnew b =>
    cases h : widthCheck b with
    | some e => exact .inl ⟨e, by simp [exec, execFnew, h]⟩
    | none =>
      exact .inr (.inr (.inr (.inl ⟨b, fRounds b, (widthCheck_eq_none b).mp h, .inl ⟨rfl, rfl⟩,
        by simp [exec, execFnew, h]⟩)))
  | pnew b nr =>
    cases h : widthCheck b with
    | some e => exact .inl ⟨e, by simp [exec, execPnew, h]⟩
    | none =>
      exact .inr (.inr (.inr (.inl ⟨b, nr, (widthCheck_eq_none b).mp h, .inr rfl, by simp [exec, execPnew, h]⟩)))
  | bget x y z =>
    cases h : (permOnly s).or (boundsCheck s x y z) with
    | some e => exact .inl ⟨e, by simp only [exec, execBget, h]⟩
    | none =>
      exact .inr (.inr (.inl ⟨(BitVec.ofBool (s.bit x.toNat y.toNat z.toNat)).setWidth 32, .inr ⟨x, y, z, rfl⟩,
        by simp only [exec, execBget, h]⟩))
  | bset x y z v =>
    cases h : (permOnly s).or (boundsCheck s x y z) with
    | some e => exact .inl ⟨e, by simp only [exec, execBset, h]⟩
    | none =>
      have h' := h
      rw [Option.or_eq_none_iff, permOnly_eq_none, boundsCheck_eq_none] at h'
      exact .inr (.inr (.inr (.inr (.inl ⟨x, y, z, v, rfl, h'.1, h'.2.1, h'.2.2.1, h'.2.2.2,
        by simp only [exec, execBset, h]⟩))))
  | snew p =>
    cases h : profileRow p with
    | none => exact .inl ⟨_, by simp only [exec, execSnew, h]; rfl⟩
    | some row =>
      exact .inr (.inr (.inr (.inr (.inr (.inr (.inl ⟨p, row, rfl, h, by simp only [exec, execSnew, h]⟩))))))
  | snewc rate sfxlen sfx =>
    cases h : (suffixForm sfxlen sfx).or (rateCheck rate) with
    | some e => exact .inl ⟨e, by simp only [exec, execSnewc, h]⟩
    | none =>
      have h' := h
      rw [Option.or_eq_none_iff, suffixForm, rateCheck, errorUnless_eq_none, errorUnless_eq_none] at h'
      exact .inr (.inr (.inr (.inr (.inr (.inr (.inr (.inl ⟨rate, sfxlen, sfx, rfl, h'.2, h'.1,
        by simp only [exec, execSnewc, h]⟩)))))))
  | absorb cnt d0 d1 d2 =>
    cases h : ((dataForm cnt d0 d1 d2).or (absorbingOnly s)).or (capacityCheck s cnt) with
    | some e => exact .inl ⟨e, by simp only [exec, execAbsorb, h]⟩
    | none =>
      have h' := h
      rw [Option.or_eq_none_iff, Option.or_eq_none_iff, absorbingOnly_eq_none, capacityCheck_eq_none] at h'
      exact .inr (.inr (.inr (.inr (.inr (.inr (.inr (.inr (.inl ⟨cnt, d0, d1, d2, rfl, h'.1.2.1, h'.1.2.2, h'.2,
        by simp only [exec, execAbsorb, h]⟩))))))))
  | squeeze n =>
    cases h : spongeOnly s with
    | some e => exact .inl ⟨e, by simp only [exec, execSqueeze, h]⟩
    | none =>
      have h' := (spongeOnly_eq_none s).mp h
      exact .inr (.inr (.inr (.inr (.inr (.inr (.inr (.inr (.inr ⟨n.toNat, .inl ⟨n, rfl, rfl⟩, h'.1, h'.2,
        by simp only [exec, execSqueeze, h]⟩))))))))
  | digest =>
    cases h : fixedOutputOnly s with
    | some e => exact .inl ⟨e, by simp only [exec, execDigest, h]⟩
    | none =>
      have h' := (fixedOutputOnly_eq_none s).mp h
      exact .inr (.inr (.inr (.inr (.inr (.inr (.inr (.inr (.inr ⟨s.outBits.toNat / 8, .inr ⟨rfl, rfl⟩, h'.2.1, h'.2.2,
        by simp only [exec, execDigest, h]⟩))))))))
  | theta | rho | pi | chi | iota | round | permute =>
    by_cases h : s.mode = .perm
    · exact .inr (.inr (.inr (.inr (.inr (.inl ⟨_, rfl, h, (exec_permuted rfl).1 h⟩)))))
    · exact .inl ⟨_, (exec_permuted rfl).2 h⟩

/-- Everything one step can do: wait, run a decoded command, refuse an undecodable word, be reset. -/
theorem step_cases (s : State) :
    (s.inputs = [] ∧ step s = .next s) ∨
    (∃ w rest i, s.inputs = .command w :: rest ∧ decode w = .ok i ∧ step s = exec i (s.takeInput rest)) ∨
    (∃ w rest e, s.inputs = .command w :: rest ∧ decode w = .error e ∧
      step s = raise .illegalCommand (s.takeInput rest)) ∨
    (∃ h rest, s.inputs = h :: rest ∧ (h = .hardwareReset ∨ ∃ w, h = .resetDuring w) ∧
      step s = .next (s.takeInput rest).powerOn) := by
  cases h : s.inputs with
  | nil => exact .inl ⟨rfl, by simp [step, h]⟩
  | cons a rest =>
    cases a with
    | command w =>
      cases hd : decode w with
      | ok i => exact .inr (.inl ⟨w, rest, i, rfl, hd, by simp [step, h, hd]⟩)
      | error e => exact .inr (.inr (.inl ⟨w, rest, e, rfl, hd, by simp [step, h, hd]⟩))
    | hardwareReset => exact .inr (.inr (.inr ⟨_, rest, rfl, .inl rfl, by simp [step, h]⟩))
    | resetDuring w => exact .inr (.inr (.inr ⟨_, rest, rfl, .inr ⟨w, rfl⟩, by simp [step, h]⟩))

end Sys2Proof.Machine
end

