-- ==== Sys2Proof/Laws/PerInstr.lean ====
section
/-! SUPPORT. Facts about every command as syntax, one lemma per constructor: the opcode field of its word is its opcode. -/

namespace Sys2Proof.Laws

/-- The bits of an operand shifted to its field. -/
theorem getLsbD_place {n : Nat} (v : BitVec n) (lo j : Nat) :
    (place v lo).getLsbD j = (decide (j < 32) && !decide (j < lo) && v.getLsbD (j - lo)) := by
  by_cases h : j < 32
  · simp [place, h]
  · simp [place, h]

/-- The bits of a field of a word. -/
theorem getLsbD_field (w : Word) (lo len j : Nat) :
    (field w lo len).getLsbD j = (decide (j < len) && w.getLsbD (lo + j)) := by
  simp [field, BitVec.getLsbD_extractLsb']

/-- A word whose operands stay below bit 26 has its opcode in its opcode field. -/
theorem opcodeField_of_operands {i : Instr} (h : ∀ j, 26 ≤ j → i.operandBits.getLsbD j = false) :
    opcodeField (encode i) = i.opcode := by
  apply BitVec.eq_of_getLsbD_eq
  intro j hj
  rw [opcodeField, getLsbD_field, encode, BitVec.getLsbD_or, getLsbD_place, h _ (by omega)]
  have h1 : 26 + j < 32 := by omega
  simp [h1, hj]

namespace Opcode

/-- The opcode of a command stands in bits 31:26 of its word (30_encoding.md R60, R63). -/
def Statement (i : Instr) : Prop := opcodeField (encode i) = i.opcode

theorem reset : Statement .reset := opcodeField_of_operands (by simp [Instr.operandBits])
theorem rdstat : Statement .rdstat := opcodeField_of_operands (by simp [Instr.operandBits])
theorem fnew (b : BitVec 11) : Statement (.fnew b) :=
  opcodeField_of_operands fun j hj => by
    simp only [Instr.operandBits, getLsbD_place]
    rw [BitVec.getLsbD_of_ge _ _ (by omega)]
    simp
theorem pnew (b : BitVec 11) (nr : BitVec 8) : Statement (.pnew b nr) :=
  opcodeField_of_operands fun j hj => by
    simp only [Instr.operandBits, getLsbD_place, BitVec.getLsbD_or]
    rw [BitVec.getLsbD_of_ge nr _ (by omega), BitVec.getLsbD_of_ge b _ (by omega)]
    simp
theorem bget (x y : BitVec 3) (z : BitVec 7) : Statement (.bget x y z) :=
  opcodeField_of_operands fun j hj => by
    simp only [Instr.operandBits, getLsbD_place, BitVec.getLsbD_or]
    rw [BitVec.getLsbD_of_ge x _ (by omega), BitVec.getLsbD_of_ge y _ (by omega), BitVec.getLsbD_of_ge z _ (by omega)]
    simp
theorem bset (x y : BitVec 3) (z : BitVec 7) (v : Bool) : Statement (.bset x y z v) :=
  opcodeField_of_operands fun j hj => by
    simp only [Instr.operandBits, getLsbD_place, BitVec.getLsbD_or]
    rw [BitVec.getLsbD_of_ge x _ (by omega), BitVec.getLsbD_of_ge y _ (by omega), BitVec.getLsbD_of_ge z _ (by omega),
      BitVec.getLsbD_of_ge (BitVec.ofBool v) _ (by omega)]
    simp
theorem theta : Statement .theta := opcodeField_of_operands (by simp [Instr.operandBits])
theorem rho : Statement .rho := opcodeField_of_operands (by simp [Instr.operandBits])
theorem pi : Statement .pi := opcodeField_of_operands (by simp [Instr.operandBits])
theorem chi : Statement .chi := opcodeField_of_operands (by simp [Instr.operandBits])
theorem iota (ir : BitVec 8) : Statement (.iota ir) :=
  opcodeField_of_operands fun j hj => by
    simp only [Instr.operandBits, getLsbD_place]
    rw [BitVec.getLsbD_of_ge _ _ (by omega)]
    simp
theorem round (ir : BitVec 8) : Statement (.round ir) :=
  opcodeField_of_operands fun j hj => by
    simp only [Instr.operandBits, getLsbD_place]
    rw [BitVec.getLsbD_of_ge _ _ (by omega)]
    simp
theorem permute : Statement .permute := opcodeField_of_operands (by simp [Instr.operandBits])
theorem snew (p : BitVec 3) : Statement (.snew p) :=
  opcodeField_of_operands fun j hj => by
    simp only [Instr.operandBits, getLsbD_place]
    rw [BitVec.getLsbD_of_ge _ _ (by omega)]
    simp
theorem snewc (rate : BitVec 11) (sfxlen : BitVec 3) (sfx : BitVec 7) : Statement (.snewc rate sfxlen sfx) :=
  opcodeField_of_operands fun j hj => by
    simp only [Instr.operandBits, getLsbD_place, BitVec.getLsbD_or]
    rw [BitVec.getLsbD_of_ge rate _ (by omega), BitVec.getLsbD_of_ge sfxlen _ (by omega),
      BitVec.getLsbD_of_ge sfx _ (by omega)]
    simp
theorem absorb (cnt : BitVec 2) (d0 d1 d2 : Byte) : Statement (.absorb cnt d0 d1 d2) :=
  opcodeField_of_operands fun j hj => by
    simp only [Instr.operandBits, getLsbD_place, BitVec.getLsbD_or]
    rw [BitVec.getLsbD_of_ge cnt _ (by omega), BitVec.getLsbD_of_ge d0 _ (by omega), BitVec.getLsbD_of_ge d1 _ (by omega),
      BitVec.getLsbD_of_ge d2 _ (by omega)]
    simp
theorem squeeze (n : BitVec 16) : Statement (.squeeze n) :=
  opcodeField_of_operands fun j hj => by
    simp only [Instr.operandBits, getLsbD_place]
    rw [BitVec.getLsbD_of_ge _ _ (by omega)]
    simp
theorem digest : Statement .digest := opcodeField_of_operands (by simp [Instr.operandBits])

end Opcode

end Sys2Proof.Laws
end

