-- ==== Sys2Proof/Tests/Slice0.lean ====
section
/-! SUPPORT. The model's own tests: expected values from the spec's tables, examples and test vectors (cited as V, P), the
smoke tests of WellFormed, and for every obligation with hypotheses a witness that meets them. -/

-- one theorem at a time: each kernel evaluation would otherwise hold a thread of its own
set_option Elab.async false

namespace Sys2Proof.Tests

open Sys2Proof.Machine

/-! ### Small states -/

/-- A Keccak-f[b] instance, as FNEW leaves it on the reset state. -/
def perm (b : BitVec 11) : State := State.reset.installPerm b (fRounds b)

/-- The same with the bits at the given coordinates set, as BSET sets them. -/
def permWith (b : BitVec 11) (bits : List (Nat × Nat × Nat)) : State :=
  bits.foldl (fun s c => s.writeBit c.1 c.2.1 c.2.2 true) (perm b)

/-- A SHA3-256 sponge, as SNEW 1 leaves it. -/
def sha : State := State.reset.installSponge ⟨1088#11, 2#3, 0b0000010#7, 256#10⟩ 1#3

/-- A SHAKE128 sponge, as SNEW 4 leaves it. -/
def shake : State := State.reset.installSponge ⟨1344#11, 4#3, 0b0001111#7, 0#10⟩ 4#3

/-- A sponge in the Squeezing phase, with a used-up block of the smallest rate. -/
def spent : State :=
  { State.reset.installSponge ⟨8#11, 0#3, 0#7, 0#10⟩ 7#3 with phase := .squeezing, sqOff := 1#8 }

/-- A sponge of the smallest rate in the Absorbing phase, with two complete blocks in its message. -/
def tiny : State := (State.reset.installSponge ⟨8#11, 0#3, 0#7, 0#10⟩ 7#3).append [1#8, 2#8]

/-- A reading of the next state. -/
def got {α : Type} (r : Result) (f : State → α) : Option α :=
  match r with
  | .next t => some (f t)
  | .fault _ => none
  | .refused _ => none

/-! ### WellFormed refuses each reserved field value (R67) -/

theorem smoke_snew_reserved_profile : (Instr.snew 6#3).wellFormed = false := by decide
theorem smoke_snew_last_profile : (Instr.snew 5#3).wellFormed = true := by decide
theorem smoke_snewc_suffix_beyond : (Instr.snewc 8#11 2#3 0b0000100#7).wellFormed = false := by decide
theorem smoke_snewc_suffix_within : (Instr.snewc 8#11 2#3 0b0000010#7).wellFormed = true := by decide
theorem smoke_absorb_d0_beyond : (Instr.absorb 0#2 1#8 0#8 0#8).wellFormed = false := by decide
theorem smoke_absorb_d1_beyond : (Instr.absorb 1#2 0#8 1#8 0#8).wellFormed = false := by decide
theorem smoke_absorb_d2_beyond : (Instr.absorb 2#2 0#8 0#8 1#8).wellFormed = false := by decide
theorem smoke_absorb_all : (Instr.absorb 3#2 1#8 1#8 1#8).wellFormed = true := by decide

/-! ### Every constructor's decoding, the word written bit by bit from R61 and R63 -/

theorem test_decode_reset : decode 0b000001_00000000000000000000000000#32 = .ok .reset := by decide
theorem test_decode_rdstat : decode 0b000010_00000000000000000000000000#32 = .ok .rdstat := by decide
theorem test_decode_fnew : decode 0b001000_0000000_00000000_11001000000#32 = .ok (.fnew 1600#11) := by decide
theorem test_decode_pnew : decode 0b001001_0000000_00001100_11001000000#32 = .ok (.pnew 1600#11 12#8) := by decide
theorem test_decode_bget : decode 0b001010_000000000000_0_001_010_0000011#32 = .ok (.bget 1#3 2#3 3#7) := by decide
theorem test_decode_bset : decode 0b001011_000000000000_1_001_010_0000011#32 = .ok (.bset 1#3 2#3 3#7 true) := by decide
theorem test_decode_theta : decode 0b010000_00000000000000000000000000#32 = .ok .theta := by decide
theorem test_decode_rho : decode 0b010001_00000000000000000000000000#32 = .ok .rho := by decide
theorem test_decode_pi : decode 0b010010_00000000000000000000000000#32 = .ok .pi := by decide
theorem test_decode_chi : decode 0b010011_00000000000000000000000000#32 = .ok .chi := by decide
theorem test_decode_iota : decode 0b010100_000000000000000000_10000001#32 = .ok (.iota 129#8) := by decide
theorem test_decode_round : decode 0b010101_000000000000000000_00010110#32 = .ok (.round 22#8) := by decide
theorem test_decode_permute : decode 0b010110_00000000000000000000000000#32 = .ok .permute := by decide
theorem test_decode_snew : decode 0b100000_00000000000000000000000_101#32 = .ok (.snew 5#3) := by decide
theorem test_decode_snewc : decode 0b100001_00000_0000010_010_10001000000#32 = .ok (.snewc 1088#11 2#3 2#7) := by decide
theorem test_decode_absorb : decode 0b100010_11_01100011_01100010_01100001#32 = .ok (.absorb 3#2 0x61#8 0x62#8 0x63#8) := by decide
theorem test_decode_squeeze : decode 0b100011_0000000000_1000000000000001#32 = .ok (.squeeze 32769#16) := by decide
theorem test_decode_digest : decode 0b100100_00000000000000000000000000#32 = .ok .digest := by decide

/-- V26: undefined opcodes, by name. -/
theorem test_decode_undefined :
    decode 0x00000000#32 = .error (.undefinedOpcode 0#6) ∧ decode 0xFFFFFFFF#32 = .error (.undefinedOpcode 0x3F#6) ∧
    decode 0x94000000#32 = .error (.undefinedOpcode 0x25#6) := by decide

/-- V15, V26: reserved bits, by name. -/
theorem test_decode_reserved_bit :
    decode 0x04000001#32 = .error .reservedBit ∧ decode 0x2C004000#32 = .error .reservedBit ∧
    decode 0x50000100#32 = .error .reservedBit ∧ decode 0x8C010000#32 = .error .reservedBit ∧
    decode 0x80000009#32 = .error .reservedBit := by decide

/-- V15, V26: reserved field values, by name. -/
theorem test_decode_reserved_field :
    decode 0x20000E40#32 = .error .reservedField ∧ decode 0x28002000#32 = .error .reservedField ∧
    decode 0x80000006#32 = .error .reservedField ∧ decode 0x84004008#32 = .error .reservedField ∧
    decode 0x89006100#32 = .error .reservedField := by decide

/-! ### Commands -/

/-- R150: RESET clears the sticky flags and destroys the instance. -/
theorem test_reset_clears :
    got (exec .reset { perm 25#11 with errFlags := 63#6 }) (fun t => (t.errFlags, t.mode, t.B)) = some (0#6, .idle, 0#11) := by
  decide +kernel

/-- V16: STATUS after SNEW 1. -/
theorem test_rdstat_sponge :
    got (exec .rdstat sha) (fun t => t.responses) = some [⟨0#4, 0x00231806#32, []⟩] := by decide +kernel

/-- V16: STATUS after FNEW 25 and a refused BGET. -/
theorem test_rdstat_flags :
    got (exec .rdstat { perm 25#11 with errFlags := 0b010000#6 }) (fun t => t.responses) =
      some [⟨0#4, 0x00018101#32, []⟩] := by decide +kernel

/-- R80: FNEW 1600. -/
theorem test_fnew_1600 :
    got (exec (.fnew 1600#11) State.reset) (fun t => (t.W, t.L, t.NR, t.mode)) = some (64#7, 6#3, 24#8, .perm) := by
  decide +kernel

/-- R80: FNEW 64 is InvalidWidth. -/
theorem test_fnew_64 :
    got (exec (.fnew 64#11) sha) (fun t => (t.errFlags, t.responses, t.mode)) =
      some (1#6, [⟨1#4, 0#32, []⟩], .sponge) := by decide +kernel

/-- R82: PNEW 1600, 12. -/
theorem test_pnew_12 : got (exec (.pnew 1600#11 12#8) State.reset) (fun t => (t.NR, t.L)) = some (12#8, 6#3) := by
  decide +kernel

/-- V15: PNEW 300, 0 is InvalidWidth. -/
theorem test_pnew_300 : got (exec (.pnew 300#11 0#8) State.reset) (fun t => t.responses) = some [⟨1#4, 0#32, []⟩] := by
  decide +kernel

/-- V15: a bit that was written reads 1. -/
theorem test_bget_written :
    got (exec (.bget 1#3 2#3 3#7) (permWith 1600#11 [(1, 2, 3)])) (fun t => t.responses) =
      some [⟨0#4, 1#32, []⟩] := by decide +kernel

/-- R84: z = 1 is out of range at W = 1. -/
theorem test_bget_bounds :
    got (exec (.bget 0#3 0#3 1#7) (perm 25#11)) (fun t => (t.errFlags, t.responses)) =
      some (0b010000#6, [⟨5#4, 0#32, []⟩]) := by decide +kernel

/-- R85: BSET 1, 2, 3, 1 writes A_lin[707]. -/
theorem test_bset_707 :
    got (exec (.bset 1#3 2#3 3#7 true) (perm 1600#11)) (fun t => t.A) = some (BitVec.twoPow 1600 707) := by decide +kernel

/-- V26: in Sponge mode the mode error outranks the bounds. -/
theorem test_bset_sponge :
    got (exec (.bset 7#3 7#3 127#7 true) sha) (fun t => t.responses) = some [⟨4#4, 0#32, []⟩] := by decide +kernel

/-- V3: theta with the wrap of z and of x at W = 64. -/
theorem test_theta_wrap :
    got (exec .theta (permWith 1600#11 [(4, 2, 63)])) (fun t => t.A) =
      some (permWith 1600#11 ([(4, 2, 63)] ++ (List.range 5).map (fun y => (0, y, 63)) ++
        (List.range 5).map (fun y => (3, y, 0)))).A := by decide +kernel

/-- V3: theta at W = 1. -/
theorem test_theta_width_1 :
    got (exec .theta (permWith 25#11 [(0, 0, 0), (2, 3, 0)])) (fun t => t.A) =
      some (permWith 25#11 ([(0, 0, 0), (2, 3, 0)] ++ (List.range 5).map (fun y => (3, y, 0)) ++
        (List.range 5).map (fun y => (4, y, 0)))).A := by decide +kernel

/-- V4: rho at W = 64 takes (4,4,63) to (4,4,13) and (1,1,0) to (1,1,44). -/
theorem test_rho_64 :
    got (exec .rho (permWith 1600#11 [(4, 4, 63), (1, 1, 0)])) (fun t => t.A) =
      some (permWith 1600#11 [(4, 4, 13), (1, 1, 44)]).A := by decide +kernel

/-- V4: rho at W = 8 takes (0,1,7) to (0,1,3). -/
theorem test_rho_8 :
    got (exec .rho (permWith 200#11 [(0, 1, 7)])) (fun t => t.A) = some (permWith 200#11 [(0, 1, 3)]).A := by decide +kernel

/-- V5: pi takes (1,0,5) to (0,2,5), (0,1,5) to (1,3,5) and (4,4,7) to (4,0,7). -/
theorem test_pi_lanes :
    got (exec .pi (permWith 200#11 [(1, 0, 5), (0, 1, 5), (4, 4, 7)])) (fun t => t.A) =
      some (permWith 200#11 [(0, 2, 5), (1, 3, 5), (4, 0, 7)]).A := by decide +kernel

/-- V6: chi on the row value 3 gives 11, and on (4,1,9) also (2,1,9). -/
theorem test_chi_rows :
    got (exec .chi (permWith 400#11 [(0, 0, 0), (1, 0, 0), (4, 1, 9)])) (fun t => t.A) =
      some (permWith 400#11 [(0, 0, 0), (1, 0, 0), (3, 0, 0), (2, 1, 9), (4, 1, 9)]).A := by decide +kernel

/-- R111: IOTA 1 on the zero array of width 1600. -/
theorem test_iota_1 : got (exec (.iota 1#8) (perm 1600#11)) (fun t => t.A) = some 0x8082#1600 := by decide +kernel

/-- V7: IOTA 255 is IOTA 0. -/
theorem test_iota_255 : got (exec (.iota 255#8) (perm 1600#11)) (fun t => t.A) = some 1#1600 := by decide +kernel

/-- P3: one round of Keccak-f[25], the array in linear order 0 1 0 1 1 1 1 0 1 0 1 0 1 1 0 1 1 0 1 1 0 1 1 0 1. -/
theorem test_round_p3 :
    got (exec (.round 0#8) (permWith 25#11 [(0, 0, 0), (2, 3, 0)])) (fun t => t.A) =
      some (bitsOf [false, true, false, true, true, true, true, false, true, false, true, false, true, true, false, true,
        true, false, true, true, false, true, true, false, true]) := by decide +kernel

/-- V9: Keccak-f[25] of the zero array. -/
theorem test_permute_25 :
    got (exec .permute (perm 25#11)) (fun t => t.A) =
      some (bitsOf [false, false, true, true, false, true, true, false, false, true, false, false, false, false, false, false,
        false, true, false, true, false, true, false, true, false]) := by decide +kernel

/-- V12: Keccak-f[200] of a one-bit state, the first and the last lane. -/
theorem test_permute_200 :
    got (exec .permute (permWith 200#11 [(1, 2, 3)])) (fun t => (laneNo 8 t.A 0, laneNo 8 t.A 24)) =
      some (0xAB#8, 0xC7#8) := by decide +kernel

/-- R124: the row of SHA3-256. -/
theorem test_snew_1 :
    got (exec (.snew 1#3) State.reset) (fun t => (t.rate, t.sfxLen, t.sfx, t.outBits, t.profile, t.phase)) =
      some (1088#11, 2#3, 2#7, 256#10, 1#3, .absorbing) := by decide +kernel

/-- R67: p = 6 is IllegalCommand. -/
theorem test_snew_6 : got (exec (.snew 6#3) sha) (fun t => t.responses) = some [⟨4#4, 0#32, []⟩] := by decide +kernel

/-- R125: the largest legal rate. -/
theorem test_snewc_1592 :
    got (exec (.snewc 1592#11 0#3 0#7) State.reset) (fun t => (t.rate, t.profile, t.outBits)) =
      some (1592#11, 7#3, 0#10) := by decide +kernel

/-- R125: 1084 is not a multiple of 8. -/
theorem test_snewc_1084 :
    got (exec (.snewc 1084#11 0#3 0#7) State.reset) (fun t => t.responses) = some [⟨2#4, 0#32, []⟩] := by decide +kernel

/-- R126: d0 first, after what is there. -/
theorem test_absorb_order :
    got (exec (.absorb 2#2 0x62#8 0x63#8 0#8) (sha.append [0x61#8])) (fun t => t.msg) =
      some [0x61#8, 0x62#8, 0x63#8] := by decide +kernel

/-- V27: with MSG_CAP = 4 and 3 bytes held, 2 more are refused whole. -/
theorem test_absorb_overflow :
    got (exec (.absorb 2#2 0x64#8 0x65#8 0#8) { sha.append [1#8, 2#8, 3#8] with cfg := ⟨some 4⟩ })
      (fun t => (t.msg, t.responses)) = some ([1#8, 2#8, 3#8], [⟨6#4, 0#32, []⟩]) := by decide +kernel

/-- V24: SNEWC 8, "1010101"; SQUEEZE 4: two blocks, the first padding 1 in block 0. -/
theorem test_squeeze_rate_8 :
    got (exec (.squeeze 2#16) (State.reset.installSponge ⟨8#11, 7#3, 0b1010101#7, 0#10⟩ 7#3)) (fun t => t.responses) =
      some [⟨0#4, 0#32, [0x66#8, 0x18#8]⟩] := by decide +kernel

/-- P2: SHAKE128 of "abc". -/
theorem test_squeeze_shake :
    got (exec (.squeeze 16#16) (shake.append [0x61#8, 0x62#8, 0x63#8])) (fun t => (t.responses, t.sqOff, t.msg)) =
      some ([⟨0#4, 0#32, [0x58#8, 0x81#8, 0x09#8, 0x2d#8, 0xd8#8, 0x18#8, 0xbf#8, 0x5c#8, 0xf8#8, 0xa3#8, 0xdd#8, 0xb7#8,
        0x93#8, 0xfb#8, 0xcb#8, 0xa7#8]⟩], 16#8, []) := by decide +kernel

/-- V1: the source's vector, SHA3-256 of the empty message. -/
theorem test_digest_v1 :
    got (exec .digest sha) (fun t => (t.responses, t.phase)) =
      some ([⟨0#4, 0#32, [0xa7#8, 0xff#8, 0xc6#8, 0xf8#8, 0xbf#8, 0x1e#8, 0xd7#8, 0x66#8, 0x51#8, 0xc1#8, 0x47#8, 0x56#8,
        0xa0#8, 0x61#8, 0xd6#8, 0x62#8, 0xf5#8, 0x80#8, 0xff#8, 0x4d#8, 0xe4#8, 0x3b#8, 0x49#8, 0xfa#8, 0x82#8, 0xd8#8,
        0x0a#8, 0x4b#8, 0x80#8, 0xf8#8, 0x43#8, 0x4a#8]⟩], .squeezing) := by decide +kernel

/-- V25: DIGEST on a variable-output sponge is IllegalCommand and leaves the phase. -/
theorem test_digest_variable :
    got (exec .digest shake) (fun t => (t.responses, t.phase)) = some ([⟨4#4, 0#32, []⟩], .absorbing) := by decide +kernel

/-- The first command after reset is the word offered. -/
theorem test_step_first_command :
    got (step (State.reset.withFetchWord 32 0x20000640)) (fun t => (t.B, t.inputs, t.responses)) =
      some (1600#11, [], [⟨0#4, 0#32, []⟩]) := by decide +kernel

/-- V26: an undefined opcode, as a step. -/
theorem test_step_undefined_word :
    got (step (State.reset.withFetchWord 32 0x0C000000)) (fun t => t.responses) = some [⟨4#4, 0#32, []⟩] := by decide +kernel

/-- R93: the round constant of ir = 23 at l = 6, and R94: of ir = 17 at l = 3. -/
theorem test_round_constants :
    roundConstant 64 6 23 = 0x8000000080008008#64 ∧ roundConstant 8 3 17 = 0x80#8 ∧ roundConstant 64 6 (-1) =
      roundConstant 64 6 254 := by decide +kernel

/-- V17: the single block of SHA3-256 of 135 bytes ends in 0x86. -/
theorem test_padding_86 :
    (paddedMessage 1088 2#3 2#7 (List.replicate 135 0xA3#8)).drop 1080 = byteBits 0x86#8 := by decide +kernel

/-- R70: the assembler's examples. -/
theorem test_assembler_examples :
    encode (asmSnewc 1088#11 [false, true]) = 0x84009440#32 ∧ encode (asmAbsorb [0x61#8, 0x62#8, 0x63#8]) = 0x8B636261#32 ∧
    encode (asmAbsorb []) = 0x88000000#32 := by decide +kernel

/-! ### Witnesses: for each obligation with hypotheses, concrete data that meets them, at the boundaries of its clauses -/

theorem inv_reset : State.reset.Inv := ⟨by decide +kernel, by decide +kernel, by decide +kernel⟩
theorem inv_perm_25 : (perm 25#11).Inv := ⟨by decide +kernel, by decide +kernel, by decide +kernel⟩
theorem inv_perm_1600 : (perm 1600#11).Inv := ⟨by decide +kernel, by decide +kernel, by decide +kernel⟩
theorem inv_perm_bits : (permWith 200#11 [(4, 4, 7)]).Inv := ⟨by decide +kernel, by decide +kernel, by decide +kernel⟩
theorem inv_sha : sha.Inv := ⟨by decide +kernel, by decide +kernel, by decide +kernel⟩
theorem inv_shake : shake.Inv := ⟨by decide +kernel, by decide +kernel, by decide +kernel⟩
theorem inv_sha_message : (sha.append [0x61#8]).Inv := ⟨by decide +kernel, by decide +kernel, by decide +kernel⟩
theorem inv_spent : spent.Inv := ⟨by decide +kernel, by decide +kernel, by decide +kernel⟩
/-- The SHA3-256 sponge of `sha` in the Squeezing phase. -/
def shaSqueezing : State := { sha with phase := .squeezing }
theorem inv_sha_squeezing : shaSqueezing.Inv :=
  ⟨by decide +kernel, by decide +kernel, by decide +kernel⟩

theorem witness_ResetLeavesResetValues :
    ({ sha with inputs := [.hardwareReset] } : State).inputs = .hardwareReset :: [] := rfl
theorem witness_HardwareResetAbandonsCommand :
    ({ sha with inputs := [.resetDuring 0x90000000#32] } : State).inputs = .resetDuring 0x90000000#32 :: [] := rfl
theorem witness_WaitingChangesNothing : sha.inputs = [] := rfl
theorem witness_StepRunsDecodedCommand :
    (sha.offer 0x90000000#32).inputs = .command 0x90000000#32 :: [] ∧ decode 0x90000000#32 = .ok .digest := by decide +kernel
theorem witness_StepKeepsInvariant :
    (perm 25#11).Inv ∧ step (perm 25#11) = .next (perm 25#11) := ⟨inv_perm_25, rfl⟩
theorem witness_StepKeepsInvariant_command :
    (State.reset.offer 0x04000000#32).Inv ∧
    step (State.reset.offer 0x04000000#32) = .next (State.reset.reply (okResponse 0#32 [])) :=
  ⟨⟨by decide +kernel, by decide +kernel, by decide +kernel⟩, rfl⟩
theorem witness_DecodeOfEncode : (Instr.absorb 3#2 255#8 0#8 1#8).wellFormed = true := by decide
theorem witness_EncodeOfDecode : decode 0x84009440#32 = .ok (.snewc 1088#11 2#3 2#7) := by decide
theorem witness_OtherWords_table : TableWord 0x80000005#32 := by decide +kernel
theorem witness_OtherWords_other :
    ¬ TableWord 0x80000006#32 ∧ (State.reset.offer 0x80000006#32).inputs = .command 0x80000006#32 :: [] := by decide +kernel
theorem witness_ErrorsChangeOnlyTheirFlag :
    exec .theta sha = .next (sha.failedWith 4) ∧
    (sha.failedWith 4).responses = sha.responses ++ [⟨4#4, 0#32, []⟩] ∧ (4#4 : BitVec 4) ≠ 0#4 :=
  ⟨rfl, rfl, by decide⟩
theorem witness_EveryCommandReturnsOneResponse :
    (∀ n, Instr.theta ≠ .squeeze n) ∧ Instr.theta ≠ .digest ∧ Instr.theta ≠ .rdstat ∧ (∀ x y z, Instr.theta ≠ .bget x y z) ∧
    Instr.bget 0#3 0#3 0#7 = .bget 0#3 0#3 0#7 := by simp
theorem witness_StickyFlagsAreSticky :
    exec (.fnew 25#11) State.reset = .next ((State.reset.installPerm 25#11 12#8).succeededWith 0#32 []) ∧
    ((State.reset.installPerm 25#11 12#8).succeededWith 0#32 []).responses = State.reset.responses ++ [⟨0#4, 0#32, []⟩] ∧
    Instr.fnew 25#11 ≠ .reset ∧ Instr.fnew 25#11 ≠ .rdstat ∧ (63#6).getLsbD 5 = true :=
  ⟨rfl, rfl, by decide, by decide, by decide⟩
theorem witness_StickyFlagsAreSticky_error :
    exec .theta sha = .next (sha.failedWith 4) ∧
    (sha.failedWith 4).responses = sha.responses ++ [⟨4#4, 0#32, []⟩] ∧ (4#4 : BitVec 4) ≠ 0#4 :=
  ⟨rfl, rfl, by decide⟩
theorem witness_StickyFlagsAreSticky_reset :
    got (step { sha with inputs := [.resetDuring 0x90000000#32], errFlags := 63#6 }) (fun t => t.errFlags) = some 0#6 ∧
    got (step { sha with inputs := [.hardwareReset], errFlags := 63#6 }) (fun t => t.errFlags) = some 0#6 := by
  decide +kernel
theorem witness_ConfigurationWrittenByConstructionOnly :
    exec .rdstat sha = .next (sha.succeededWith 0x00231806#32 []) ∧ Instr.rdstat ≠ .reset ∧ (∀ b, Instr.rdstat ≠ .fnew b) ∧
    (∀ b nr, Instr.rdstat ≠ .pnew b nr) ∧ (∀ p, Instr.rdstat ≠ .snew p) ∧
    (∀ r l x, Instr.rdstat ≠ .snewc r l x) := ⟨rfl, by simp, by simp, by simp, by simp, by simp⟩
theorem witness_NoWayBackToAbsorbing :
    got (exec (.snew 1#3) (perm 25#11)) (fun t => t.phase) = some .absorbing ∧ (perm 25#11).phase ≠ .absorbing ∧
    got (exec (.squeeze 0#16) (State.reset.installSponge ⟨8#11, 0#3, 0#7, 0#10⟩ 7#3)) (fun t => t.phase) =
      some .squeezing := by decide +kernel
theorem witness_MessageBufferBytes :
    got (exec (.absorb 1#2 7#8 0#8 0#8) (sha.append [1#8])) (fun t => (t.responses, Memory.read t.msg 0, Memory.read t.msg 1,
      Memory.read t.msg 2)) = some ([⟨0#4, 0#32, []⟩], some 1#8, some 7#8, none) := by decide +kernel
theorem witness_ModeTable :
    (Instr.absorb 0#2 0#8 0#8 0#8).wellFormed = true ∧ State.reset.mode = .idle ∧ (perm 25#11).mode = .perm ∧
    sha.mode = .sponge ∧ sha.phase = .absorbing ∧ spent.mode = .sponge ∧ spent.phase = .squeezing ∧
    shake.outBits = 0#10 ∧ sha.outBits ≠ 0#10 := by decide +kernel
theorem witness_EnginesOfChipAreIndependent :
    (0 : Nat) ≠ 1 ∧ Chip.step 0 (Chip.reset 1) = .next (Chip.reset 1) ∧ Chip.step 1 (Chip.reset 1) = .next (Chip.reset 1) :=
  ⟨by decide, rfl, rfl⟩
theorem witness_FnewPnew : CandidateWidth (25#11).toNat ∧ CandidateWidth (1600#11).toNat ∧ ¬ CandidateWidth (1601#11).toNat ∧
    ¬ CandidateWidth (0#11).toNat := by decide
theorem witness_BgetBset_inRange :
    (perm 1600#11).Inv ∧ (perm 1600#11).mode = .perm ∧ (4#3).toNat < 5 ∧ (63#7).toNat < (perm 1600#11).W.toNat :=
  ⟨inv_perm_1600, by decide +kernel, by decide, by decide +kernel⟩
theorem witness_BgetBset_outOfRange :
    (perm 25#11).Inv ∧ (perm 25#11).mode = .perm ∧ ¬ ((0#3).toNat < 5 ∧ (0#3).toNat < 5 ∧ (1#7).toNat < (perm 25#11).W.toNat) ∧
    ¬ ((5#3).toNat < 5 ∧ (0#3).toNat < 5 ∧ (0#7).toNat < (perm 25#11).W.toNat) :=
  ⟨inv_perm_25, by decide +kernel, by decide +kernel, by decide +kernel⟩
theorem witness_BgetBset_otherMode : sha.Inv ∧ sha.mode ≠ .perm := ⟨inv_sha, by decide⟩
theorem witness_GetAfterSet :
    (perm 25#11).Inv ∧ (perm 25#11).mode = .perm ∧ (4#3).toNat < 5 ∧ (0#7).toNat < (perm 25#11).W.toNat :=
  ⟨inv_perm_25, by decide +kernel, by decide, by decide +kernel⟩
theorem witness_permutationCommands_perm :
    (permWith 200#11 [(4, 4, 7)]).Inv ∧ (permWith 200#11 [(4, 4, 7)]).mode = .perm ∧ (4 : Nat) < 5 ∧
    7 < (permWith 200#11 [(4, 4, 7)]).W.toNat := ⟨inv_perm_bits, by decide +kernel, by decide, by decide +kernel⟩
theorem witness_permutationCommands_idle : State.reset.Inv ∧ State.reset.mode ≠ .perm := ⟨inv_reset, by decide⟩
theorem witness_RoundIsFiveCommands : (perm 25#11).mode = .perm := by decide +kernel
theorem witness_PermuteIsRoundCommands : (State.reset.installPerm 25#11 255#8).mode = .perm ∧
    254 < (State.reset.installPerm 25#11 255#8).NR.toNat := by decide +kernel
theorem witness_RoundConstantPeriodAndTruncation : (-1 : Int) % 255 = 254 % 255 ∧ (6 : Nat) ≤ 6 := by decide
theorem witness_RhoOffsetsFollowWalk : (23 : Nat) < 24 ∧ (4 : Nat) < 5 ∧ ((4, 4) : Nat × Nat) ≠ (0, 0) := by decide
theorem witness_bijections : (6 : Nat) ≤ 6 ∧ ArrayFits (25 * 2 ^ 0) 0x1FFFFFF#1600 := by decide +kernel
theorem witness_SnewCommand : (5#3 : BitVec 3) = ((5#3, 1088#11, 4#3, 15#7, 0#10) :
    BitVec 3 × BitVec 11 × BitVec 3 × BitVec 7 × BitVec 10).1 ∧ 6 ≤ (6#3).toNat := by decide
theorem witness_SnewcCommand_suffix : (2#3).toNat ≤ 2 ∧ (0b0000100#7).getLsbD 2 = true := by decide
theorem witness_SnewcCommand_rates :
    (∀ i, (0#3).toNat ≤ i → (0#7).getLsbD i = false) ∧ (1600 ≤ (1600#11).toNat) ∧ (1084#11).toNat % 8 ≠ 0 ∧
    0 < (1592#11).toNat ∧ (1592#11).toNat < 1600 ∧ (1592#11).toNat % 8 = 0 := by simp
theorem witness_AbsorbCommand_beyond : (1#2).toNat ≤ 1 ∧ [0#8, 1#8, 0#8].getD 1 0#8 ≠ 0#8 := by decide
theorem witness_AbsorbCommand_fits : ∀ i, (3#2).toNat ≤ i → [1#8, 2#8, 3#8].getD i 0#8 = 0#8 := by
  intro i hi
  rw [List.getD_eq_getElem?_getD, List.getElem?_eq_none (by simpa using hi)]
  rfl
theorem witness_AbsorbCommand_capacity :
    (∃ cap, ({ sha with cfg := ⟨some 2⟩ } : State).cfg.msgCap = some cap ∧ cap < sha.msg.length + (3#2).toNat) ∧
    (∀ cap, ({ sha with cfg := ⟨some 3⟩ } : State).cfg.msgCap = some cap → sha.msg.length + (3#2).toNat ≤ cap) ∧
    sha.mode = .sponge ∧ sha.phase = .absorbing := by
  refine ⟨⟨2, rfl, by decide +kernel⟩, ?_, by decide, by decide⟩
  rintro cap h
  cases h
  decide +kernel
theorem witness_padding : (0 : Nat) < 1 ∧ (1088 : Nat) ∣ 1088 ∧ 0 + 2 ≤ 1088 := by decide
theorem witness_ByteFormOfPadding :
    validRate 8#11 = true ∧ (6#3).toNat ≤ 6 ∧ WellFormed.suffixFits 6#3 0b0111111#7 = true := by decide
theorem witness_FirstSqueezeFinalizes :
    (sha.append [0x61#8]).Inv ∧ (sha.append [0x61#8]).mode = .sponge ∧ (sha.append [0x61#8]).phase = .absorbing ∧
    (sha.append [0x61#8]).outBits ≠ 0#10 ∧ exec .rdstat (sha.append [0x61#8]) = .next
      ((sha.append [0x61#8]).succeededWith 0x00231806#32 []) ∧ (∀ n, Instr.rdstat ≠ .squeeze n) ∧ Instr.rdstat ≠ .digest :=
  ⟨inv_sha_message, by decide +kernel, by decide +kernel, by decide +kernel, rfl, by simp, by simp⟩
theorem witness_SqueezeCommand_usedUp :
    spent.Inv ∧ spent.mode = .sponge ∧ spent.phase = .squeezing ∧ spent.sqOff.toNat = spent.rate.toNat / 8 :=
  ⟨inv_spent, by decide +kernel, by decide +kernel, by decide +kernel⟩
theorem witness_SqueezeCommand_other : State.reset.Inv ∧ State.reset.mode ≠ .sponge := ⟨inv_reset, by decide⟩
theorem witness_DigestCommand :
    sha.Inv ∧ sha.mode = .sponge ∧ sha.outBits ≠ 0#10 ∧ shake.Inv ∧ shake.mode = .sponge ∧ shake.outBits = 0#10 :=
  ⟨inv_sha, by decide, by decide, inv_shake, by decide, by decide⟩
theorem witness_IncrementalSqueeze :
    sha.mode = .sponge ∧ sha.phase ≠ .none ∧ (65535#16).toNat + (0#16).toNat ≤ 65535 := by decide +kernel
theorem witness_CapacityIsNeverOutput :
    shaSqueezing.Inv ∧ shaSqueezing.mode = .sponge ∧ shaSqueezing.phase = .squeezing ∧
    (∀ i, i < shaSqueezing.rate.toNat → (BitVec.twoPow 1600 1088).getLsbD i = shaSqueezing.A.getLsbD i) ∧
    shaSqueezing.sqOff.toNat + (136#16).toNat ≤ shaSqueezing.rate.toNat / 8 := by
  refine And.intro inv_sha_squeezing ⟨rfl, rfl, fun i hi => ?_, by decide +kernel⟩
  rw [show shaSqueezing.rate.toNat = 1088 from rfl] at hi
  rw [BitVec.getLsbD_twoPow, show shaSqueezing.A = 0#1600 from rfl, BitVec.getLsbD_zero, Bool.and_eq_false_iff]
  exact .inr (decide_eq_false (by omega))
theorem witness_LanesAreLittleEndian : (199 : Nat) < 200 := by decide
theorem witness_EarlyAbsorptionIsUnobservable :
    validRate tiny.rate = true ∧ 2 * tiny.rate.toNat ≤ 8 * tiny.msg.length ∧ tiny.mode = .sponge ∧
    tiny.phase = .absorbing ∧ tiny.cfg.msgCap = none := by decide +kernel
theorem witness_HashReturnsSpongeFunction :
    State.reset.inputs = [] ∧ profileRow 1#3 = some ⟨1088#11, 2#3, 2#7, 256#10⟩ ∧ profileRow 5#3 = some ⟨1088#11, 4#3, 15#7, 0#10⟩ ∧
    (∀ cap, State.reset.cfg.msgCap = some cap → [0x61#8].length ≤ cap) ∧ (1#3).toNat < 4 ∧ 4 ≤ (5#3).toNat :=
  ⟨rfl, by decide, by decide, by simp [State.reset], by decide, by decide⟩

end Sys2Proof.Tests
end

section
/-! PROOFS. The reset values and the sticky error flags (10_state.md R24, R32): what a reset leaves, how each command ends,
and that no response but RDSTAT's reads the flags. -/

namespace Sys2Proof.Machine

/-! ### Reset -/

/-- Whatever the state was, power-on leaves the reset values (R32). -/
theorem State.resetValues_powerOn (s : State) : ResetValues s.powerOn := by simp [ResetValues]

/-- Returning a response touches no element of the engine's state. -/
theorem State.resetValues_reply {s : State} (h : ResetValues s) (r : Response) : ResetValues (s.reply r) := h

/-- Hardware reset, whether or not a command is in progress, is power-on once its input is taken (R180). -/
theorem step_of_hardwareReset {s : State} {rest : List HostInput} {w : Word}
    (h : s.inputs = .hardwareReset :: rest ∨ s.inputs = .resetDuring w :: rest) :
    step s = .next (s.takeInput rest).powerOn := by
  obtain h | h := h <;> simp [step, h]

/-! ### How a command ends -/

/-- A squeeze writes no flag and returns no response before its own. -/
theorem State.beginSqueeze_keeps (s : State) :
    s.beginSqueeze.errFlags = s.errFlags ∧ s.beginSqueeze.responses = s.responses := by
  unfold State.beginSqueeze
  cases s.phase <;> exact ⟨rfl, rfl⟩

/-- A command other than RESET raises an error, or responds from a state with the flags and the responses as they were. -/
theorem exec_raises_or_responds {i : Instr} (hi : i ≠ .reset) (s : State) :
    (∃ e, exec i s = raise e s) ∨
    ∃ val dout u, exec i s = respond val dout u ∧ u.errFlags = s.errFlags ∧ u.responses = s.responses := by
  obtain h | ⟨rfl, -⟩ | ⟨val, -, h⟩ | ⟨b, nr, -, -, h⟩ | ⟨x, y, z, v, -, -, -, -, -, h⟩ | ⟨A, -, -, h⟩ |
    ⟨p, row, -, -, h⟩ | ⟨rate, sfxlen, sfx, -, -, -, h⟩ | ⟨cnt, d0, d1, d2, -, -, -, -, h⟩ | ⟨n, -, -, -, h⟩ :=
    exec_cases i s
  · exact .inl h
  · exact absurd rfl hi
  -- the squeeze, the last of exec's cases, may finalize first
  on_goal 8 => exact .inr ⟨_, _, _, h, State.beginSqueeze_keeps s⟩
  all_goals exact .inr ⟨_, _, _, h, rfl, rfl⟩

/-- No error has the code 0 of success (60_exceptions.md R160). -/
theorem errorCode_ne_zero (e : EngineError) : errorCode e ≠ 0#4 := by cases e <;> decide

/-- The state and the response record a command leaves: those of an error and nothing else, or, with code 0, the flags
cleared by RESET and kept by every other command. -/
theorem exec_next_cases {i : Instr} {s t : State} {r : Response}
    (ht : exec i s = .next t) (hr : t.responses = s.responses ++ [r]) :
    (∃ e, i ≠ .reset ∧ r.err = errorCode e ∧ t = s.failedWith (errorCode e).toNat) ∨
    (r.err = 0#4 ∧ t.errFlags = if i = .reset then 0#6 else s.errFlags) := by
  by_cases hi : i = .reset
  · subst hi
    cases ht
    cases List.append_cancel_left hr
    exact .inr ⟨rfl, rfl⟩
  · obtain ⟨e, he⟩ | ⟨val, dout, u, hu, hflags, hresp⟩ := exec_raises_or_responds hi s
    · rw [he, raise_eq] at ht
      cases ht
      cases List.append_cancel_left hr
      exact .inl ⟨e, hi, BitVec.ofNat_toNat .., rfl⟩
    · rw [hu] at ht
      cases ht
      rw [State.reply_responses, hresp] at hr
      cases List.append_cancel_left hr
      exact .inr ⟨rfl, by simp [hi, hflags]⟩

/-! ### The flags are read by RDSTAT only -/

/-- Both results are next states that add the same response to `past`. -/
def SameResponse (past : List Response) (a b : Result) : Prop :=
  ∃ t u r, a = .next t ∧ b = .next u ∧ t.responses = past ++ [r] ∧ u.responses = past ++ [r]

theorem sameResponse_respond {past : List Response} {u u' : State} (val : Word) (dout : List Byte)
    (h : u.responses = past) (h' : u'.responses = past) :
    SameResponse past (respond val dout u) (respond val dout u') :=
  ⟨_, _, okResponse val dout, rfl, rfl, by simp [h], by simp [h']⟩

theorem sameResponse_raise {s s' : State} (e : EngineError) (h : s'.responses = s.responses) :
    SameResponse s.responses (raise e s) (raise e s') :=
  ⟨_, _, errorResponse e, rfl, rfl, rfl, by simp [h]⟩

/-- The shape of every command with checks: the same check before alike effects gives the same response. -/
theorem sameResponse_checked {s s' : State} {a b : Result} (c : Option EngineError) (h : s'.responses = s.responses)
    (hab : SameResponse s.responses a b) :
    SameResponse s.responses (match c with | some e => raise e s | none => a)
      (match c with | some e => raise e s' | none => b) := by
  cases c with
  | none => exact hab
  | some e => exact sameResponse_raise e h

/-- Finalization before a squeeze neither reads nor writes the flags. -/
theorem State.beginSqueeze_errFlags (s : State) (flags : BitVec 6) :
    ({ s with errFlags := flags } : State).beginSqueeze = { s.beginSqueeze with errFlags := flags } := by
  cases h : s.phase <;> simp [State.beginSqueeze, State.finalize, finalArray, h]

theorem sameResponse_squeezeEffect (n : Nat) (s : State) (flags : BitVec 6) :
    SameResponse s.responses (squeezeEffect n s) (squeezeEffect n { s with errFlags := flags }) := by
  have hresp : s.beginSqueeze.responses = s.responses := s.beginSqueeze_keeps.2
  simp only [squeezeEffect, State.beginSqueeze_errFlags]
  exact sameResponse_respond _ _ hresp hresp

/-- The response to a command other than RDSTAT is the same whatever the flags are (R24). -/
theorem exec_sameResponse {i : Instr} (hi : i ≠ .rdstat) (s : State) (flags : BitVec 6) :
    SameResponse s.responses (exec i s) (exec i { s with errFlags := flags }) := by
  cases i with
  | rdstat => exact absurd rfl hi
  | reset => exact sameResponse_respond _ _ rfl rfl
  | snew p =>
    simp only [exec, execSnew]
    cases profileRow p with
    | none => exact sameResponse_raise _ rfl
    | some row => exact sameResponse_respond _ _ rfl rfl
  | squeeze | digest => exact sameResponse_checked _ rfl (sameResponse_squeezeEffect _ s flags)
  | fnew | pnew | bget | bset | theta | rho | pi | chi | iota | round | permute | snewc | absorb =>
    exact sameResponse_checked _ rfl (sameResponse_respond _ _ rfl rfl)

end Sys2Proof.Machine

namespace Sys2Proof.Proofs

open Sys2Proof.Machine

/-- Settles O1: all three states are power-on states, up to a response returned. -/
theorem resetLeavesResetValues : Obligations.ResetLeavesResetValues := by
  refine ⟨State.resetValues_powerOn State.reset, fun s => ?_, fun s rest h => ?_⟩
  · exact ⟨_, rfl, State.resetValues_reply s.resetValues_powerOn _⟩
  · exact ⟨_, step_of_hardwareReset (w := 0#32) (.inl h), State.resetValues_powerOn _⟩

/-- Settles O15, by the two ways a command ends (an error's flag and response only, or code 0), by power-on for the resets,
and by comparing a command's responses under two values of the flags. -/
theorem stickyFlagsAreSticky : Obligations.StickyFlagsAreSticky := by
  refine ⟨fun i s t r ht hr => ?_, fun s t rest w hin ht => ?_, fun i s flags hi => exec_sameResponse hi s flags⟩
  · obtain ⟨e, hi, herr, rfl⟩ | ⟨herr, hflags⟩ := exec_next_cases ht hr
    · have hcode : r.err ≠ 0#4 := herr ▸ errorCode_ne_zero e
      refine ⟨fun _ k hk => ?_, fun h => absurd h hi, fun _ h => absurd h hcode, fun _ => ⟨by rw [herr]; rfl, rfl⟩⟩
      simp [State.failedWith, hk]
    · exact ⟨fun hi k hk => by rwa [hflags, if_neg hi], fun hi => by rw [hflags, if_pos hi],
        fun hi _ => by rw [hflags, if_neg hi], fun h => absurd herr h⟩
  · rw [step_of_hardwareReset hin] at ht
    cases ht
    rfl

end Sys2Proof.Proofs
end

section
/-! PROOFS. The word of every command, for every operand value (30_encoding.md R63). -/

namespace Sys2Proof.Laws

/-- The word of a command of opcode `op`: the table's word ORed with the operands. -/
theorem encode_eq_or {i : Instr} (op : BitVec 6) {m : Word} (hi : i.opcode = op) (hm : place op 26 = m) :
    encode i = m ||| i.operandBits := by
  rw [encode, hi, hm]

/-- The word of a command of opcode `op` without operands is the table's word. -/
theorem encode_eq_of_no_operand {i : Instr} (op : BitVec 6) {m : Word} (hi : i.opcode = op) (hm : place op 26 = m)
    (h0 : i.operandBits = 0#32) : encode i = m := by
  rw [encode_eq_or op hi hm, h0, BitVec.or_zero]

/-- The word of a command whose only operand stands at bit 0, where it is only widened. -/
theorem encode_eq_of_low_operand {i : Instr} (op : BitVec 6) {m : Word} {n : Nat} {v : BitVec n} (hi : i.opcode = op)
    (hm : place op 26 = m) (hv : i.operandBits = place v 0) : encode i = m ||| v.setWidth 32 := by
  rw [encode_eq_or op hi hm, hv, place, BitVec.shiftLeft_zero]

theorem encode_reset : encode .reset = 0x04000000#32 := encode_eq_of_no_operand 0x01#6 rfl rfl rfl
theorem encode_rdstat : encode .rdstat = 0x08000000#32 := encode_eq_of_no_operand 0x02#6 rfl rfl rfl
theorem encode_theta : encode .theta = 0x40000000#32 := encode_eq_of_no_operand 0x10#6 rfl rfl rfl
theorem encode_rho : encode .rho = 0x44000000#32 := encode_eq_of_no_operand 0x11#6 rfl rfl rfl
theorem encode_pi : encode .pi = 0x48000000#32 := encode_eq_of_no_operand 0x12#6 rfl rfl rfl
theorem encode_chi : encode .chi = 0x4C000000#32 := encode_eq_of_no_operand 0x13#6 rfl rfl rfl
theorem encode_permute : encode .permute = 0x58000000#32 := encode_eq_of_no_operand 0x16#6 rfl rfl rfl
theorem encode_digest : encode .digest = 0x90000000#32 := encode_eq_of_no_operand 0x24#6 rfl rfl rfl

theorem encode_fnew (b : BitVec 11) : encode (.fnew b) = 0x20000000#32 ||| b.setWidth 32 :=
  encode_eq_of_low_operand 0x08#6 rfl rfl rfl
theorem encode_iota (ir : BitVec 8) : encode (.iota ir) = 0x50000000#32 ||| ir.setWidth 32 :=
  encode_eq_of_low_operand 0x14#6 rfl rfl rfl
theorem encode_round (ir : BitVec 8) : encode (.round ir) = 0x54000000#32 ||| ir.setWidth 32 :=
  encode_eq_of_low_operand 0x15#6 rfl rfl rfl
theorem encode_snew (p : BitVec 3) : encode (.snew p) = 0x80000000#32 ||| p.setWidth 32 :=
  encode_eq_of_low_operand 0x20#6 rfl rfl rfl
theorem encode_squeeze (n : BitVec 16) : encode (.squeeze n) = 0x8C000000#32 ||| n.setWidth 32 :=
  encode_eq_of_low_operand 0x23#6 rfl rfl rfl

theorem encode_pnew (b : BitVec 11) (nr : BitVec 8) :
    encode (.pnew b nr) = 0x24000000#32 ||| nr.setWidth 32 <<< 11 ||| b.setWidth 32 := by
  rw [encode_eq_or 0x09#6 (m := 0x24000000#32) rfl rfl]
  simp only [Instr.operandBits, place, BitVec.shiftLeft_zero, BitVec.or_assoc]
theorem encode_bget (x y : BitVec 3) (z : BitVec 7) :
    encode (.bget x y z) = 0x28000000#32 ||| x.setWidth 32 <<< 10 ||| y.setWidth 32 <<< 7 ||| z.setWidth 32 := by
  rw [encode_eq_or 0x0A#6 (m := 0x28000000#32) rfl rfl]
  simp only [Instr.operandBits, place, BitVec.shiftLeft_zero, BitVec.or_assoc]
theorem encode_bset (x y : BitVec 3) (z : BitVec 7) (v : Bool) :
    encode (.bset x y z v) = 0x2C000000#32 ||| (BitVec.ofBool v).setWidth 32 <<< 13 ||| x.setWidth 32 <<< 10 |||
    y.setWidth 32 <<< 7 ||| z.setWidth 32 := by
  rw [encode_eq_or 0x0B#6 (m := 0x2C000000#32) rfl rfl]
  simp only [Instr.operandBits, place, BitVec.shiftLeft_zero, BitVec.or_assoc]
theorem encode_snewc (rate : BitVec 11) (sfxlen : BitVec 3) (sfx : BitVec 7) :
    encode (.snewc rate sfxlen sfx) = 0x84000000#32 ||| sfx.setWidth 32 <<< 14 ||| sfxlen.setWidth 32 <<< 11 |||
    rate.setWidth 32 := by
  rw [encode_eq_or 0x21#6 (m := 0x84000000#32) rfl rfl]
  simp only [Instr.operandBits, place, BitVec.shiftLeft_zero, BitVec.or_assoc]
theorem encode_absorb (cnt : BitVec 2) (d0 d1 d2 : Byte) :
    encode (.absorb cnt d0 d1 d2) = 0x88000000#32 ||| cnt.setWidth 32 <<< 24 ||| d2.setWidth 32 <<< 16 |||
    d1.setWidth 32 <<< 8 ||| d0.setWidth 32 := by
  rw [encode_eq_or 0x22#6 (m := 0x88000000#32) rfl rfl]
  simp only [Instr.operandBits, place, BitVec.shiftLeft_zero, BitVec.or_assoc]

end Sys2Proof.Laws

namespace Sys2Proof.Proofs

open Sys2Proof.Laws

/-- Settles O9, command by command. -/
theorem commandWords : Obligations.CommandWords :=
  ⟨encode_reset, encode_rdstat, encode_fnew, encode_pnew, encode_bget, encode_bset, encode_theta, encode_rho, encode_pi,
    encode_chi, encode_iota, encode_round, encode_permute, encode_snew, encode_snewc, encode_absorb, encode_squeeze,
    encode_digest⟩

end Sys2Proof.Proofs
end

section
/-! PROOFS. The words that decode are those of the opcode table (30_encoding.md R64 to R67), and what a step does with any
other word. -/

namespace Sys2Proof.Laws

open Sys2Proof.Machine

/-! ### Fields by their bits -/

theorem field_eq_iff (w : Word) (lo len : Nat) (v : BitVec len) :
    field w lo len = v ↔ ∀ j, lo ≤ j → j < lo + len → w.getLsbD j = v.getLsbD (j - lo) := by
  rw [BitVec.eq_of_getLsbD_eq_iff]
  refine ⟨fun h j hlo hj => ?_, fun h j hj => ?_⟩
  · have hbit := h (j - lo) (by omega)
    rwa [getLsbD_field, decide_eq_true (by omega), Bool.true_and, Nat.add_sub_cancel' hlo] at hbit
  · rw [getLsbD_field, decide_eq_true hj, Bool.true_and, h _ (by omega) (by omega), Nat.add_sub_cancel_left]

theorem zeroField_iff (w : Word) (lo len : Nat) :
    zeroField w lo len = true ↔ ∀ j, lo ≤ j → j < lo + len → w.getLsbD j = false := by
  simp only [zeroField, beq_iff_eq, field_eq_iff, BitVec.getLsbD_zero]

/-- Zeros in two adjacent fields are zeros in the field they make up. -/
theorem zeroField_add (w : Word) (lo n m : Nat) :
    zeroField w lo (n + m) = true ↔ zeroField w lo n = true ∧ zeroField w (lo + n) m = true := by
  simp only [zeroField_iff]
  refine ⟨fun h => ⟨fun j h1 h2 => h j h1 (by omega), fun j h1 h2 => h j (by omega) (by omega)⟩,
    fun ⟨hn, hm⟩ j h1 h2 => ?_⟩
  by_cases hj : j < lo + n
  · exact hn j h1 hj
  · exact hm j (by omega) (by omega)

/-! ### A row's mask says its opcode and its zero field -/

/-- The mask of a row of the opcode table: the opcode field and the zero field `[lo, lo + len)`. -/
def formMask (lo len : Nat) : Word := place (BitVec.allOnes 6) 26 ||| place (BitVec.allOnes len) lo

theorem getLsbD_formMask {lo len j : Nat} (hlen : lo + len ≤ 26) (hj : j < 32) :
    (formMask lo len).getLsbD j = decide (26 ≤ j ∨ (lo ≤ j ∧ j < lo + len)) := by
  rw [Bool.eq_iff_iff, formMask]
  simp only [BitVec.getLsbD_or, getLsbD_place, BitVec.getLsbD_allOnes, Bool.or_eq_true, Bool.and_eq_true, Bool.not_eq_true',
    decide_eq_true_eq, decide_eq_false_iff_not]
  omega

/-- A word matches a row's mask exactly when it has the row's opcode, and zeros in the row's zero field. -/
theorem and_formMask_iff {w : Word} {op : BitVec 6} {lo len : Nat} (hlen : lo + len ≤ 26) :
    w &&& formMask lo len = place op 26 ↔ opcodeField w = op ∧ zeroField w lo len = true := by
  have hbits : w &&& formMask lo len = place op 26 ↔ ∀ j, j < 32 →
      (w.getLsbD j && decide (26 ≤ j ∨ (lo ≤ j ∧ j < lo + len))) = (!decide (j < 26) && op.getLsbD (j - 26)) := by
    rw [BitVec.eq_of_getLsbD_eq_iff]
    refine forall_congr' fun j => forall_congr' fun hj => ?_
    rw [BitVec.getLsbD_and, getLsbD_formMask hlen hj, getLsbD_place, decide_eq_true hj, Bool.true_and]
  rw [hbits, opcodeField, field_eq_iff, zeroField_iff]
  refine ⟨fun h => ⟨fun j h26 hj => ?_, fun j hlo hj => ?_⟩, fun ⟨hop, hzero⟩ j hj => ?_⟩
  · simpa [h26, Nat.not_lt.mpr h26] using h j hj
  · simpa [hlo, hj, show j < 26 by omega] using h j (by omega)
  · by_cases h26 : 26 ≤ j
    · simpa [h26, Nat.not_lt.mpr h26] using hop j h26 hj
    · by_cases hlo : lo ≤ j ∧ j < lo + len
      · simp [hzero j hlo.1 hlo.2, Nat.lt_of_not_le h26]
      · simp [h26, hlo, Nat.lt_of_not_le h26]

/-! ### The reserved field values by their bits and bytes (R67) -/

/-- No suffix bit at or above the length. -/
theorem suffixFits_iff (sfxlen : BitVec 3) (sfx : BitVec 7) :
    WellFormed.suffixFits sfxlen sfx = true ↔ ∀ i, i < 7 → sfxlen.toNat ≤ i → sfx.getLsbD i = false := by
  rw [WellFormed.suffixFits, beq_iff_eq]
  refine ⟨fun h i _ hi => ?_, fun h => BitVec.eq_of_getLsbD_eq fun j hj => ?_⟩
  · have := congrArg (·.getLsbD (i - sfxlen.toNat)) h
    simpa [Nat.add_sub_cancel' hi] using this
  · rw [BitVec.getLsbD_ushiftRight, BitVec.getLsbD_zero]
    by_cases h7 : sfxlen.toNat + j < 7
    · exact h _ h7 (by omega)
    · exact BitVec.getLsbD_of_ge _ _ (by omega)

/-- No data byte beyond the count. -/
theorem dataFits_iff (cnt : BitVec 2) (d : Nat → Byte) :
    WellFormed.dataFits cnt (d 0) (d 1) (d 2) = true ↔ ∀ i, i < 3 → cnt.toNat ≤ i → d i = 0#8 := by
  simp only [WellFormed.dataFits, Bool.and_eq_true, Bool.or_eq_true, decide_eq_true_eq, beq_iff_eq]
  refine ⟨fun ⟨⟨h0, h1⟩, h2⟩ i hi hc => ?_, fun h => ⟨⟨?_, ?_⟩, ?_⟩⟩
  · match i with
    | 0 => exact h0.resolve_left (by omega)
    | 1 => exact h1.resolve_left (by omega)
    | 2 => exact h2.resolve_left (by omega)
  · exact or_iff_not_imp_left.mpr fun hc => h 0 (by omega) (by omega)
  · exact or_iff_not_imp_left.mpr fun hc => h 1 (by omega) (by omega)
  · exact or_iff_not_imp_left.mpr fun hc => h 2 (by omega) (by omega)

/-! ### The words that decode -/

/-- A row of the opcode table, given by its match `m` and its mask, in terms of the fields. -/
theorem row_iff {w mask m : Word} (op : BitVec 6) (lo len : Nat)
    (h : lo + len ≤ 26 ∧ formMask lo len = mask ∧ place op 26 = m) :
    w &&& mask = m ↔ (opcodeField w).toNat = op.toNat ∧ zeroField w lo len = true := by
  obtain ⟨hlen, rfl, rfl⟩ := h
  rw [and_formMask_iff hlen, BitVec.toNat_inj]

/-- A row without operands has the full mask. -/
theorem row_full_iff {w m : Word} (op : BitVec 6) (hm : place op 26 = m) :
    w = m ↔ (opcodeField w).toNat = op.toNat ∧ zeroField w 0 26 = true := by
  rw [← row_iff op 0 26 (mask := BitVec.allOnes 32) ⟨by decide, by decide, hm⟩, BitVec.and_allOnes]

/-- The rows without operands. -/
theorem mem_full_rows_iff (w : Word) :
    w ∈ [0x04000000#32, 0x08000000#32, 0x40000000#32, 0x44000000#32, 0x48000000#32, 0x4C000000#32, 0x58000000#32,
      0x90000000#32] ↔
    (opcodeField w).toNat ∈ [0x01, 0x02, 0x10, 0x11, 0x12, 0x13, 0x16, 0x24] ∧ zeroField w 0 26 = true := by
  simp only [List.mem_cons, List.not_mem_nil, or_false, or_and_right]
  rw [row_full_iff 0x01#6 (by decide), row_full_iff 0x02#6 (by decide), row_full_iff 0x10#6 (by decide),
    row_full_iff 0x11#6 (by decide), row_full_iff 0x12#6 (by decide), row_full_iff 0x13#6 (by decide),
    row_full_iff 0x16#6 (by decide), row_full_iff 0x24#6 (by decide)]
  rfl

theorem profileDefined_field_iff (w : Word) :
    WellFormed.profileDefined (field w 0 3) = true ↔ (w &&& 0x7#32).toNat < 6 := by
  have h : (field w 0 3).toNat = (w &&& 0x7#32).toNat := by
    rw [field, BitVec.extractLsb'_toNat, BitVec.toNat_and]
    exact (Nat.and_two_pow_sub_one_eq_mod _ 3).symm
  rw [WellFormed.profileDefined, decide_eq_true_eq, h]

theorem suffixFits_field_iff (w : Word) :
    WellFormed.suffixFits (field w 11 3) (field w 14 7) = true ↔
      ∀ i : Nat, i < 7 → (w.extractLsb' 11 3).toNat ≤ i → w.getLsbD (14 + i) = false := by
  rw [suffixFits_iff]
  refine forall_congr' fun i => forall_congr' fun hi => ?_
  rw [getLsbD_field, decide_eq_true hi, Bool.true_and, field]

/-- The rows of the opcode table in the decoder's terms: opcode, zero field, reserved field values. -/
theorem tableWord_iff (w : Word) : TableWord w ↔
    ((opcodeField w).toNat ∈ [0x01, 0x02, 0x10, 0x11, 0x12, 0x13, 0x16, 0x24] ∧ zeroField w 0 26 = true) ∨
    ((opcodeField w).toNat = 0x08 ∧ zeroField w 11 8 = true ∧ zeroField w 19 7 = true) ∨
    ((opcodeField w).toNat = 0x09 ∧ zeroField w 19 7 = true) ∨
    ((opcodeField w).toNat = 0x0A ∧ zeroField w 13 1 = true ∧ zeroField w 14 12 = true) ∨
    ((opcodeField w).toNat = 0x0B ∧ zeroField w 14 12 = true) ∨
    ((opcodeField w).toNat = 0x14 ∧ zeroField w 8 18 = true) ∨
    ((opcodeField w).toNat = 0x15 ∧ zeroField w 8 18 = true) ∨
    (((opcodeField w).toNat = 0x20 ∧ zeroField w 3 23 = true) ∧ WellFormed.profileDefined (field w 0 3) = true) ∨
    (((opcodeField w).toNat = 0x21 ∧ zeroField w 21 5 = true) ∧
      WellFormed.suffixFits (field w 11 3) (field w 14 7) = true) ∨
    (((opcodeField w).toNat = 0x22 ∧ zeroField w 0 0 = true) ∧
      WellFormed.dataFits (field w 24 2) (field w 0 8) (field w 8 8) (field w 16 8) = true) ∨
    ((opcodeField w).toNat = 0x23 ∧ zeroField w 16 10 = true) := by
  unfold TableWord
  rw [row_iff 0x08#6 11 15 (by decide), row_iff 0x09#6 19 7 (by decide), row_iff 0x0A#6 13 13 (by decide),
    row_iff 0x0B#6 14 12 (by decide), row_iff 0x14#6 8 18 (by decide), row_iff 0x15#6 8 18 (by decide),
    row_iff 0x20#6 3 23 (by decide), row_iff 0x21#6 21 5 (by decide), row_iff 0x22#6 0 0 (by decide),
    row_iff 0x23#6 16 10 (by decide)]
  rw [mem_full_rows_iff, ← profileDefined_field_iff, ← suffixFits_field_iff,
    ← dataFits_iff (w.extractLsb' 24 2) (fun i => w.extractLsb' (8 * i) 8), zeroField_add w 11 8 7, zeroField_add w 13 1 12]
  rfl

/-- Stage 2 passes exactly when all of its three conditions hold. -/
theorem checkForm_isOk_iff (w : Word) (lo len : Nat) (extra : Bool) (i : Instr) :
    (∃ i', checkForm w lo len extra i = .ok i') ↔ zeroField w lo len = true ∧ extra = true ∧ i.wellFormed = true := by
  unfold checkForm
  cases zeroField w lo len <;> cases extra <;> cases i.wellFormed <;> simp

/-- The decoder accepts exactly the words of the opcode table. -/
theorem decode_isOk_iff (w : Word) : (∃ i, decode w = .ok i) ↔ TableWord w := by
  rw [tableWord_iff]
  unfold decode
  split
  -- no row has another opcode
  case h_19 => simp_all
  all_goals simp [decodeN, checkForm_isOk_iff, Instr.wellFormed, and_comm, *]

/-- A step that takes a word the decoder refuses raises IllegalCommand (R64). -/
theorem step_of_decode_error {s : State} {w : Word} {rest : List HostInput} {e : DecodeError}
    (hin : s.inputs = .command w :: rest) (hw : decode w = .error e) :
    step s = .next ((s.takeInput rest).failedWith 4) := by
  simp only [step, hin, hw]
  exact raise_eq .illegalCommand _

end Sys2Proof.Laws

namespace Sys2Proof.Proofs

open Sys2Proof.Machine Sys2Proof.Laws

/-- Settles O12: a word outside the table is one the decoder refuses, and a step that takes it raises IllegalCommand. -/
theorem otherWordsRaiseIllegalCommand : Obligations.OtherWordsRaiseIllegalCommand := by
  refine fun w => ⟨(decode_isOk_iff w).mpr, fun hw s rest hin => ?_⟩
  cases hd : decode w with
  | ok i => exact absurd ((decode_isOk_iff w).mp ⟨i, hd⟩) hw
  | error e => exact step_of_decode_error hin hd

end Sys2Proof.Proofs
end

section
/-! PROOFS. The mode table (30_encoding.md R68): the error of every cell that is not "ok", and the end of a command in a cell
that is. -/

namespace Sys2Proof.Machine

/-! ### The rows of the table -/

/-- The commands of Perm mode: BGET, BSET and the seven permutation commands. -/
abbrev PermCommand (i : Instr) : Prop :=
  (∃ x y z, i = .bget x y z) ∨ (∃ x y z v, i = .bset x y z v) ∨ i = .theta ∨ i = .rho ∨ i = .pi ∨
    i = .chi ∨ (∃ ir, i = .iota ir) ∨ (∃ ir, i = .round ir) ∨ i = .permute

/-- RESET, RDSTAT and the constructors, which are legal in every mode and phase. -/
abbrev AnywhereCommand (i : Instr) : Prop :=
  i = .reset ∨ i = .rdstat ∨ (∃ b, i = .fnew b) ∨ (∃ b nr, i = .pnew b nr) ∨ (∃ p, i = .snew p) ∨
    (∃ rate sfxlen sfx, i = .snewc rate sfxlen sfx)

/-- A Perm command reads a bit, writes a bit, or is one of the seven that compute a new array. -/
theorem permCommand_cases {i : Instr} (h : PermCommand i) (s : State) :
    (∃ x y z, i = .bget x y z) ∨ (∃ x y z v, i = .bset x y z v) ∨ ∃ A, permuted s i = some A := by
  obtain h | h | rfl | rfl | rfl | rfl | ⟨ir, rfl⟩ | ⟨ir, rfl⟩ | rfl := h
  · exact .inl h
  · exact .inr (.inl h)
  all_goals exact .inr (.inr ⟨_, rfl⟩)

/-! ### The cells that are not "ok" -/

/-- A Perm command outside Perm mode. -/
theorem exec_permCommand_of_ne {i : Instr} {s : State} (hi : PermCommand i) (hm : s.mode ≠ .perm) :
    exec i s = raise .illegalCommand s := by
  obtain ⟨x, y, z, rfl⟩ | ⟨x, y, z, v, rfl⟩ | ⟨A, hA⟩ := permCommand_cases hi s
  · simp [exec, execBget, permOnly_of_ne s hm]
  · simp [exec, execBset, permOnly_of_ne s hm]
  · exact (exec_permuted hA).2 hm

/-- A well-formed ABSORB passes the check of its form. -/
theorem dataForm_of_wellFormed {cnt : BitVec 2} {d0 d1 d2 : Byte} (hwf : (Instr.absorb cnt d0 d1 d2).wellFormed = true) :
    dataForm cnt d0 d1 d2 = none :=
  (errorUnless_eq_none _ _).mpr hwf

/-- A well-formed ABSORB raises the error of its mode. -/
theorem exec_absorb_of_mode_error {cnt : BitVec 2} {d0 d1 d2 : Byte} {s : State} {e : EngineError}
    (hwf : (Instr.absorb cnt d0 d1 d2).wellFormed = true) (he : absorbingOnly s = some e) :
    exec (.absorb cnt d0 d1 d2) s = raise e s := by
  simp [exec, execAbsorb, dataForm_of_wellFormed hwf, he]

/-- SQUEEZE outside Sponge mode. -/
theorem exec_squeeze_of_ne {n : BitVec 16} {s : State} (hm : s.mode ≠ .sponge) :
    exec (.squeeze n) s = raise .illegalCommand s := by
  simp [exec, execSqueeze, spongeOnly_of_ne s hm]

/-- DIGEST outside Sponge mode, or on a sponge of variable output. -/
theorem exec_digest_of_ne {s : State} (h : s.outBits = 0#10 ∨ s.mode ≠ .sponge) :
    exec .digest s = raise .illegalCommand s := by
  have hc : fixedOutputOnly s = some .illegalCommand := by
    unfold fixedOutputOnly
    split
    · rfl
    · next h0 => exact spongeOnly_of_ne s (h.resolve_left h0)
  simp [exec, execDigest, hc]

/-! ### The cells that are "ok" -/

/-- An error of stage 4 (R64), which no cell of the mode table names. -/
abbrev OperandError (e : EngineError) : Prop := e ≠ .illegalCommand ∧ e ≠ .spongeMisuse

/-- The command ends with one response, whose code is neither IllegalCommand's nor SpongeMisuse's. -/
def PassesMode (s : State) (a : Result) : Prop :=
  ∃ t r, a = .next t ∧ t.responses = s.responses ++ [r] ∧ r.err ≠ 4#4 ∧ r.err ≠ 3#4

theorem passesMode_respond {s u : State} (val : Word) (dout : List Byte) (hu : u.responses = s.responses) :
    PassesMode s (respond val dout u) :=
  ⟨_, okResponse val dout, rfl, by simp [hu], by simp [okResponse], by simp [okResponse]⟩

theorem passesMode_raise {e : EngineError} (s : State) (he : OperandError e) : PassesMode s (raise e s) := by
  refine ⟨_, errorResponse e, rfl, rfl, ?_⟩
  obtain ⟨h4, h3⟩ := he
  cases e with
  | illegalCommand => exact absurd rfl h4
  | spongeMisuse => exact absurd rfl h3
  | invalidWidth | invalidRate | boundsViolation | bufferOverflow => exact ⟨by decide, by decide⟩

/-- The shape of every command with checks: it passes if its checks answer operand errors only. -/
theorem passesMode_checked {s : State} {a : Result} {c : Option EngineError} (ha : PassesMode s a) :
    (∀ e, c = some e → OperandError e) → PassesMode s (match c with | some e => raise e s | none => a) := by
  intro hc
  cases c with
  | none => exact ha
  | some e => exact passesMode_raise s (hc e rfl)

theorem passesMode_squeezeEffect (n : Nat) (s : State) : PassesMode s (squeezeEffect n s) :=
  passesMode_respond _ _ s.beginSqueeze_keeps.2

/-- A well-formed SNEW names a row of the profile table. -/
theorem profileRow_of_wellFormed {p : BitVec 3} (hwf : (Instr.snew p).wellFormed = true) :
    ∃ row, profileRow p = some row := by
  revert p
  simp only [← Option.isSome_iff_exists]
  decide

/-- RESET, RDSTAT and the constructors pass in every mode and phase. -/
theorem passesMode_anywhere {i : Instr} (s : State) (hi : AnywhereCommand i) (hwf : i.wellFormed = true) :
    PassesMode s (exec i s) := by
  obtain rfl | rfl | ⟨b, rfl⟩ | ⟨b, nr, rfl⟩ | ⟨p, rfl⟩ | ⟨rate, sfxlen, sfx, rfl⟩ := hi
  · exact passesMode_respond _ _ rfl
  · exact passesMode_respond _ _ rfl
  · exact passesMode_checked (passesMode_respond _ _ rfl) (by simp [widthCheck, OperandError])
  · exact passesMode_checked (passesMode_respond _ _ rfl) (by simp [widthCheck, OperandError])
  · obtain ⟨row, hrow⟩ := profileRow_of_wellFormed hwf
    simp only [exec, execSnew, hrow]
    exact passesMode_respond _ _ rfl
  · have hform : suffixForm sfxlen sfx = none := (errorUnless_eq_none _ _).mpr hwf
    exact passesMode_checked (passesMode_respond _ _ rfl) (by simp [hform, rateCheck, OperandError])

/-- A Perm command passes in Perm mode. -/
theorem passesMode_permCommand {i : Instr} {s : State} (hi : PermCommand i) (hm : s.mode = .perm) :
    PassesMode s (exec i s) := by
  have hmode : permOnly s = none := (permOnly_eq_none s).mpr hm
  obtain ⟨x, y, z, rfl⟩ | ⟨x, y, z, v, rfl⟩ | ⟨A, hA⟩ := permCommand_cases hi s
  · exact passesMode_checked (passesMode_respond _ _ rfl) (by simp [hmode, boundsCheck, OperandError])
  · exact passesMode_checked (passesMode_respond _ _ rfl) (by simp [hmode, boundsCheck, OperandError])
  · rw [(exec_permuted hA).1 hm]
    exact passesMode_respond _ _ rfl

/-- A well-formed ABSORB passes in the Absorbing phase. -/
theorem passesMode_absorb {cnt : BitVec 2} {d0 d1 d2 : Byte} {s : State}
    (hwf : (Instr.absorb cnt d0 d1 d2).wellFormed = true) (hm : s.mode = .sponge) (hp : s.phase = .absorbing) :
    PassesMode s (exec (.absorb cnt d0 d1 d2) s) := by
  have hmode : absorbingOnly s = none := (absorbingOnly_eq_none s).mpr ⟨hm, hp⟩
  exact passesMode_checked (passesMode_respond _ _ rfl) (by simp [dataForm_of_wellFormed hwf, hmode, capacityCheck, OperandError])

end Sys2Proof.Machine

namespace Sys2Proof.Proofs

open Sys2Proof.Machine

/-- Settles O19: a cell that is not "ok" raises its error at stage 3, and in a cell that is, only an operand error is left. -/
theorem modeTable : Obligations.ModeTable := by
  intro i s hwf
  refine ⟨fun hm hi => ?_, fun hm hi => ?_, fun hm hp hi => ?_, fun _ h0 hi => ?_, fun h => ?_⟩
  · have hne : s.mode ≠ .perm := by rcases hm with hm | hm <;> simp [hm]
    exact (exec_permCommand_of_ne hi hne).trans (raise_eq _ s)
  · have hne : s.mode ≠ .sponge := by rcases hm with hm | hm <;> simp [hm]
    obtain ⟨cnt, d0, d1, d2, rfl⟩ | ⟨n, rfl⟩ | rfl := hi
    · exact (exec_absorb_of_mode_error hwf (absorbingOnly_of_ne s hne)).trans (raise_eq _ s)
    · exact (exec_squeeze_of_ne hne).trans (raise_eq _ s)
    · exact (exec_digest_of_ne (.inr hne)).trans (raise_eq _ s)
  · obtain ⟨cnt, d0, d1, d2, rfl⟩ := hi
    exact (exec_absorb_of_mode_error hwf (absorbingOnly_squeezing s hm hp)).trans (raise_eq _ s)
  · subst hi
    exact (exec_digest_of_ne (.inl h0)).trans (raise_eq _ s)
  · obtain hi | ⟨hm, hi⟩ | ⟨hm, hp, cnt, d0, d1, d2, rfl⟩ | ⟨hm, hp, ⟨n, rfl⟩ | ⟨rfl, h0⟩⟩ := h
    · exact passesMode_anywhere s hi hwf
    · exact passesMode_permCommand hi hm
    · exact passesMode_absorb hwf hm hp
    · exact passesMode_checked (passesMode_squeezeEffect _ s) (by simp [(spongeOnly_eq_none s).mpr ⟨hm, hp⟩])
    · exact passesMode_checked (passesMode_squeezeEffect _ s) (by simp [(fixedOutputOnly_eq_none s).mpr ⟨h0, hm, hp⟩])

end Sys2Proof.Proofs
end

section
/-! PROOFS. FNEW, PNEW, BGET and BSET (40_bitstate_config.md R80 to R85): the registers of a
width, the check the two bit accesses share, and what each of the four commands does. -/

namespace Sys2Proof.Machine

/-! ### Construction -/

theorem widthCheck_of_not_candidate {b : BitVec 11} (h : ¬ CandidateWidth b.toNat) :
    widthCheck b = some .invalidWidth := by
  rw [← widthCheck_eq_none] at h
  simpa [widthCheck] using h

/-- At each of the seven widths W, L and a derived NR hold the exact values: no bit is lost in their registers
(R81, 41_permutation.md R103). -/
theorem widthRegisters_of_candidate {b : BitVec 11} (h : CandidateWidth b.toNat) :
    25 * (BitVec.ofNat 7 (laneLength b)).toNat = b.toNat ∧
    (BitVec.ofNat 7 (laneLength b)).toNat = 2 ^ (BitVec.ofNat 3 (laneLog b)).toNat ∧
    (fRounds b).toNat = 12 + 2 * (BitVec.ofNat 3 (laneLog b)).toNat := by
  obtain ⟨l, hl, hb, hw⟩ := candidate_cases h
  have hpow : 2 ^ l ≤ 2 ^ 6 := Nat.pow_le_pow_right (by decide) hl
  have hW : (BitVec.ofNat 7 (2 ^ l)).toNat = 2 ^ l := by rw [BitVec.toNat_ofNat, Nat.mod_eq_of_lt (by omega)]
  have hL : (BitVec.ofNat 3 l).toNat = l := by rw [BitVec.toNat_ofNat, Nat.mod_eq_of_lt (by omega)]
  have hNR : (BitVec.ofNat 8 (12 + 2 * l)).toNat = 12 + 2 * l := by rw [BitVec.toNat_ofNat, Nat.mod_eq_of_lt (by omega)]
  rw [fRounds, laneLength_of_candidate hw, laneLog_of_candidate hw, hW, hL, hNR]
  exact ⟨hb.symm, rfl, rfl⟩

/-- FNEW is PNEW with the derived round count (R80, R82). -/
theorem exec_fnew_eq_pnew (b : BitVec 11) (s : State) : exec (.fnew b) s = exec (.pnew b (fRounds b)) s := rfl

theorem exec_pnew_of_candidate {b : BitVec 11} (nr : BitVec 8) (s : State) (h : CandidateWidth b.toNat) :
    exec (.pnew b nr) s = .next ((s.installPerm b nr).succeededWith 0#32 []) := by
  simp only [exec, execPnew, (widthCheck_eq_none b).mpr h]
  rfl

theorem exec_pnew_of_not_candidate {b : BitVec 11} (nr : BitVec 8) (s : State) (h : ¬ CandidateWidth b.toNat) :
    exec (.pnew b nr) s = .next (s.failedWith 1) := by
  simp only [exec, execPnew, widthCheck_of_not_candidate h]
  rfl

/-! ### Bit access -/

/-- `in_range(x, y, z)` (R83). -/
abbrev CoordinatesInRange (s : State) (x y : BitVec 3) (z : BitVec 7) : Prop :=
  x.toNat < 5 ∧ y.toNat < 5 ∧ z.toNat < s.W.toNat

section
variable {s : State} {x y : BitVec 3} {z : BitVec 7} (hm : s.mode = .perm)
include hm

theorem accessCheck_of_inRange (hr : CoordinatesInRange s x y z) : (permOnly s).or (boundsCheck s x y z) = none := by
  rw [Option.or_eq_none_iff, permOnly_eq_none, boundsCheck_eq_none]
  exact ⟨hm, hr⟩

theorem accessCheck_of_not_inRange (hr : ¬ CoordinatesInRange s x y z) :
    (permOnly s).or (boundsCheck s x y z) = some .boundsViolation := by
  rw [(permOnly_eq_none s).mpr hm, Option.none_or, boundsCheck, errorUnless_eq_some]
  exact ⟨by simpa [inRange, and_assoc] using hr, rfl⟩

theorem exec_bget_of_inRange (hr : CoordinatesInRange s x y z) :
    exec (.bget x y z) s =
      .next (s.succeededWith ((BitVec.ofBool (s.bit x.toNat y.toNat z.toNat)).setWidth 32) []) := by
  simp only [exec, execBget, accessCheck_of_inRange hm hr]
  rfl

theorem exec_bget_of_not_inRange (hr : ¬ CoordinatesInRange s x y z) :
    exec (.bget x y z) s = .next (s.failedWith 5) := by
  simp only [exec, execBget, accessCheck_of_not_inRange hm hr]
  rfl

theorem exec_bset_of_inRange (v : Bool) (hr : CoordinatesInRange s x y z) :
    exec (.bset x y z v) s = .next ((s.writeBit x.toNat y.toNat z.toNat v).succeededWith 0#32 []) := by
  simp only [exec, execBset, accessCheck_of_inRange hm hr]
  rfl

theorem exec_bset_of_not_inRange (v : Bool) (hr : ¬ CoordinatesInRange s x y z) :
    exec (.bset x y z v) s = .next (s.failedWith 5) := by
  simp only [exec, execBset, accessCheck_of_not_inRange hm hr]
  rfl

/-- In Perm mode an address in range lies in the storage of 1600 bits, since 25 W = B and B is a width (R17). -/
theorem linearIndex_lt_storage (hinv : s.Inv) (hr : CoordinatesInRange s x y z) :
    linearIndex s.W.toNat x.toNat y.toNat z.toNat < 1600 := by
  obtain ⟨-, hperm, -⟩ := hinv
  obtain ⟨hB, hW, -⟩ := hperm hm
  obtain ⟨hx, hy, hz⟩ := hr
  obtain ⟨l, hl, hb, -⟩ := candidate_cases hB
  have hpow : 2 ^ l ≤ 2 ^ 6 := Nat.pow_le_pow_right (by decide) hl
  have hlt := linearIndex_lt hx hy hz
  omega

end

/-- A bit as a value word: in val[0], the rest 0 (30_encoding.md R69). -/
theorem setWidth_ofBool (v : Bool) : (BitVec.ofBool v).setWidth 32 = if v = true then 1#32 else 0#32 := by
  cases v <;> rfl

end Sys2Proof.Machine

namespace Sys2Proof.Proofs

open Sys2Proof.Machine Sys2Proof.Laws

/-- Settles O24: FNEW is PNEW with the derived round count, and the registers hold the values of the width. -/
theorem fnewCommand : Obligations.FnewCommand := by
  refine ⟨encode_fnew, fun s b => ?_⟩
  rw [exec_fnew_eq_pnew]
  refine ⟨fun h => ?_, exec_pnew_of_not_candidate _ s⟩
  obtain ⟨hW, hL, hNR⟩ := widthRegisters_of_candidate h
  exact ⟨_, _, _, hW, hL, hNR, exec_pnew_of_candidate _ s h⟩

/-- Settles O25: as O24, with the caller's round count. -/
theorem pnewCommand : Obligations.PnewCommand := by
  refine ⟨encode_pnew, fun s b nr => ⟨fun h => ?_, exec_pnew_of_not_candidate nr s⟩⟩
  obtain ⟨hW, hL, -⟩ := widthRegisters_of_candidate h
  exact ⟨_, _, hW, hL, exec_pnew_of_candidate nr s h⟩

/-- Settles O26: the bit read is the one at the linear index of the coordinates. -/
theorem bgetCommand : Obligations.BgetCommand := by
  refine ⟨encode_bget, fun s x y z => ⟨fun hm hr => ?_, exec_bget_of_not_inRange, fun hm => ?_⟩⟩
  · rw [exec_bget_of_inRange hm hr, setWidth_ofBool]
    rfl
  · exact (exec_permCommand_of_ne (.inl ⟨x, y, z, rfl⟩) hm).trans (raise_eq _ s)

/-- Settles O27: the address is one of the storage's bits, and `setBit` writes that bit only. -/
theorem bsetCommand : Obligations.BsetCommand := by
  refine ⟨encode_bset, fun s x y z v hinv => ⟨fun hm hr => ?_, fun hm => exec_bset_of_not_inRange hm v, fun hm => ?_⟩⟩
  · exact ⟨_, exec_bset_of_inRange hm v hr, fun i => getLsbD_setBit s.A _ i v (linearIndex_lt_storage hm hinv hr)⟩
  · exact (exec_permCommand_of_ne (.inr (.inl ⟨x, y, z, v, rfl⟩)) hm).trans (raise_eq _ s)

end Sys2Proof.Proofs
end

section
/-! PROOFS. The permutation commands by the bit rules (41_permutation.md R95 to R100): each sub-step of the lane form takes
an array with the bits of `f` to one with the bits of the spec's rule on `f`, and so does their composition, the round. -/

namespace Sys2Proof.Machine

/-! ### Residues and rotations -/

/-- `(a - k) mod n` for a residue `a`: one wrap below zero at most (00_scope.md R8). -/
theorem modSub_of_lt {a n : Nat} (k : Nat) (ha : a < n) :
    modSub a k n = if a < k % n then n - k % n + a else a - k % n := by
  have hk : k % n < n := Nat.mod_lt _ (by omega)
  rw [modSub, ← Int.sub_emod_emod, ← Int.natCast_mod]
  split
  · rw [← Int.add_emod_right, Int.emod_eq_of_lt (by omega) (by omega)]
    omega
  · rw [Int.emod_eq_of_lt (by omega) (by omega)]
    omega

theorem modSub_lt (a k : Nat) {n : Nat} (hn : 0 < n) : modSub a k n < n := by
  have h0 := Int.emod_nonneg ((a : Int) - k) (b := n) (by omega)
  have h1 := Int.emod_lt_of_pos ((a : Int) - k) (b := n) (by omega)
  unfold modSub
  omega

/-- Rotating a lane left moves bit `(z - k) mod w` to bit `z` (R96, R106). -/
theorem getLsbD_rotateLeft_eq_modSub {w z : Nat} (v : BitVec w) (k : Nat) (hz : z < w) :
    (v.rotateLeft k).getLsbD z = v.getLsbD (modSub z k w) := by
  rw [BitVec.getLsbD_rotateLeft, modSub_of_lt k hz]
  split <;> simp [*]

/-! ### The round constant -/

/-- The printed table is the sequence of the shift register over one period (R91). -/
theorem rcLines_eq_lfsr :
    ∀ n < 255, (rcLines.getD (n / 64) 0#64).getMsbD (n % 64) = (lfsr n).getLsbD 0 := by decide +kernel

theorem rc_eq_rcByLfsr (t : Int) : rc t = rcByLfsr t :=
  rcLines_eq_lfsr _ (by omega)

/-- Setting the bit `e j` for each `j` of a list that meets `c`. -/
theorem getLsbD_foldl_twoPow {w z : Nat} (c : Nat → Bool) (e : Nat → Nat) (hz : z < w) (js : List Nat) (acc : BitVec w) :
    (js.foldl (fun acc j => if c j then acc ||| BitVec.twoPow w (e j) else acc) acc).getLsbD z =
      (acc.getLsbD z || js.any fun j => z == e j && c j) := by
  induction js generalizing acc with
  | nil => simp
  | cons j js ih =>
    rw [List.foldl_cons, ih, List.any_cons, ← Bool.or_assoc]
    have hbit : (BitVec.twoPow w (e j)).getLsbD z = (z == e j) := by
      by_cases hj : z = e j
      · simp [← hj, hz]
      · simp [hj, Ne.symm hj]
    cases c j <;> simp [hbit]

/-- The bits of the round constant, from the shift register (R92). -/
theorem getLsbD_roundConstant {w z : Nat} (l : Nat) (ir : Int) (hz : z < w) :
    (roundConstant w l ir).getLsbD z = roundConstantRule l ir z := by
  simp only [roundConstant, roundConstantRule, ← rc_eq_rcByLfsr]
  rw [getLsbD_foldl_twoPow (fun j => rc ((j : Int) + 7 * ir)) (fun j => 2 ^ j - 1) hz]
  simp

/-! ### Arrays by their bits -/

/-- `A` is an array of lane length `w` with `A[x,y,z] = f x y z`, and no bit beyond its width (10_state.md R14, R17). -/
structure IsArray (w : Nat) (A : Bits) (f : Nat → Nat → Nat → Bool) : Prop where
  pos : 0 < w
  le : w ≤ 64
  fits : ArrayFits (25 * w) A
  bits : ∀ x y z, x < 5 → y < 5 → z < w → bitAt w A x y z = f x y z

/-- An array built from lanes has the bits of its lanes. -/
theorem isArray_arrayOf {w : Nat} {g : Nat → Nat → BitVec w} {f : Nat → Nat → Nat → Bool} (hpos : 0 < w) (hle : w ≤ 64)
    (h : ∀ x y z, x < 5 → y < 5 → z < w → (g x y).getLsbD z = f x y z) : IsArray w (arrayOf w g) f where
  pos := hpos
  le := hle
  fits := arrayOf_fits g hpos
  bits x y z hx hy hz := (bitAt_arrayOf g hx hy hz hle).trans (h x y z hx hy hz)

section
variable {w x y z : Nat} {A : Bits} {f : Nat → Nat → Nat → Bool} (h : IsArray w A f)
include h

theorem IsArray.getLsbD_lane (hx : x < 5) (hy : y < 5) (hz : z < w) : (lane w A x y).getLsbD z = f x y z := by
  rw [Machine.getLsbD_lane, decide_eq_true hz, Bool.true_and, h.bits x y z hx hy hz]

theorem IsArray.getLsbD_thetaC (hx : x < 5) (hz : z < w) : (thetaC w A x).getLsbD z = parityRule f x z := by
  simp [thetaC, parityRule, h.getLsbD_lane hx _ hz]

theorem IsArray.getLsbD_thetaD (hx : x < 5) (hz : z < w) : (thetaD w A x).getLsbD z = diffusionRule w f x z := by
  have hprev : modSub x 1 5 = (x + 4) % 5 := by
    rw [modSub_of_lt 1 hx]
    split <;> omega
  rw [thetaD, diffusionRule, BitVec.getLsbD_xor, getLsbD_rotateLeft_eq_modSub _ _ hz, hprev,
    h.getLsbD_thetaC (Nat.mod_lt _ (by decide)) hz, h.getLsbD_thetaC (Nat.mod_lt _ (by decide)) (modSub_lt z 1 h.pos)]

/-! ### The sub-steps and the round -/

theorem isArray_theta : IsArray w (theta w A) (thetaRule w f) :=
  isArray_arrayOf h.pos h.le fun x y z hx hy hz => by
    rw [BitVec.getLsbD_xor, h.getLsbD_lane hx hy hz, h.getLsbD_thetaD hx hz, thetaRule]

theorem isArray_rho : IsArray w (rho w A) (rhoRule w f) :=
  isArray_arrayOf h.pos h.le fun x y z hx hy hz => by
    rw [getLsbD_rotateLeft_eq_modSub _ _ hz, h.getLsbD_lane hx hy (modSub_lt z _ h.pos), rhoRule]

theorem isArray_pi : IsArray w (pi w A) (piRule f) :=
  isArray_arrayOf h.pos h.le fun x _ _ hx _ hz => h.getLsbD_lane (Nat.mod_lt _ (by decide)) hx hz

theorem isArray_chi : IsArray w (chi w A) (chiRule f) :=
  isArray_arrayOf h.pos h.le fun x y z hx hy hz => by
    have hnext (k : Nat) : (lane w A ((x + k) % 5) y).getLsbD z = f ((x + k) % 5) y z :=
      h.getLsbD_lane (Nat.mod_lt _ (by decide)) hy hz
    rw [BitVec.getLsbD_xor, BitVec.getLsbD_and, BitVec.getLsbD_not, decide_eq_true hz, h.getLsbD_lane hx hy hz, hnext,
      hnext, Bool.true_and, ← Bool.xor_true, chiRule]

/-- Lane (0, 0) is the low `w` bits of the array, so the constant meets no other lane. -/
theorem isArray_iota (l : Nat) (ir : Int) : IsArray w (iota w l ir A) (iotaRule l ir f) where
  pos := h.pos
  le := h.le
  fits := (fits_iff _ _).mpr fun i hi => by
    have hA : A.getLsbD i = false := (fits_iff A _).mp h.fits i hi
    have hRC : (roundConstant w l ir).getLsbD i = false := BitVec.getLsbD_of_ge _ _ (by omega)
    simp [iota, hA, hRC]
  bits x y z hx hy hz := by
    have hlt := linearIndex_lt hx hy hz
    have hi : linearIndex w x y z < 1600 := by
      have := h.le
      omega
    have hbit : bitAt w (iota w l ir A) x y z = (f x y z ^^ (roundConstant w l ir).getLsbD (linearIndex w x y z)) := by
      rw [← h.bits x y z hx hy hz]
      simp [bitAt, iota, hi]
    rw [hbit, iotaRule]
    split
    · next h0 =>
      obtain ⟨rfl, rfl⟩ := h0
      have h00 : linearIndex w 0 0 z = z := by simp [linearIndex]
      rw [h00, getLsbD_roundConstant l ir hz]
    · next h0 =>
      have hge : w ≤ linearIndex w x y z := by
        have : w * 1 ≤ w * (5 * y + x) := Nat.mul_le_mul_left w (by omega)
        unfold linearIndex
        omega
      rw [BitVec.getLsbD_of_ge _ _ hge, Bool.xor_false]

/-- The round is the composition of the five sub-steps, each on the full array the last one left (R100). -/
theorem isArray_rnd (l : Nat) (ir : Int) : IsArray w (rnd w l ir A) (roundRule w l ir f) :=
  isArray_iota (isArray_chi (isArray_pi (isArray_rho (isArray_theta h)))) l ir

end

/-! ### The commands -/

/-- In Perm mode the state holds an array of one of the seven widths (10_state.md R17). -/
theorem State.isArray_of_perm {s : State} (hinv : s.Inv) (hm : s.mode = .perm) :
    25 * s.W.toNat = s.B.toNat ∧ IsArray s.W.toNat s.A (bitAt s.W.toNat s.A) := by
  obtain ⟨-, hperm, -⟩ := hinv
  obtain ⟨hB, hW, -, hA, -⟩ := hperm hm
  obtain ⟨l, hl, hb, -⟩ := candidate_cases hB
  have hpos : 0 < 2 ^ l := Nat.two_pow_pos l
  have hpow : 2 ^ l ≤ 2 ^ 6 := Nat.pow_le_pow_right (by decide) hl
  exact ⟨hW, by omega, by omega, hW ▸ hA, fun _ _ _ _ _ _ => rfl⟩

/-- A permutation command whose array has the bits of a rule has that rule's effect in Perm mode and no other; elsewhere it is
IllegalCommand (41_permutation.md section 5). -/
theorem exec_permuted_of_rule {i : Instr} {s : State} {A' : Bits} {f : Nat → Nat → Nat → Bool} (hi : permuted s i = some A')
    (hinv : s.Inv) (hrule : IsArray s.W.toNat s.A (bitAt s.W.toNat s.A) → IsArray s.W.toNat A' f) :
    (s.mode = .perm → ∃ A' : Bits, exec i s = .next (State.succeededWith { s with A := A' } 0#32 []) ∧
      ArrayFits s.B.toNat A' ∧ ∀ x y z, x < 5 → y < 5 → z < s.W.toNat → bitAt s.W.toNat A' x y z = f x y z) ∧
    (s.mode ≠ .perm → exec i s = .next (s.failedWith 4)) := by
  obtain ⟨hperm, hother⟩ := exec_permuted hi
  refine ⟨fun hm => ?_, fun hm => (hother hm).trans (raise_eq _ s)⟩
  obtain ⟨hB, hA⟩ := State.isArray_of_perm hinv hm
  have hA' := hrule hA
  exact ⟨A', hperm hm, hB ▸ hA'.fits, hA'.bits⟩

end Sys2Proof.Machine

namespace Sys2Proof.Proofs

open Sys2Proof.Machine Sys2Proof.Laws

/-- Settles O29: the lane form of theta has the bits of R95. -/
theorem thetaCommand : Obligations.ThetaCommand :=
  ⟨encode_theta, fun _ hinv => exec_permuted_of_rule rfl hinv isArray_theta⟩

/-- Settles O30: rotating each lane by its offset has the bits of R96. -/
theorem rhoCommand : Obligations.RhoCommand :=
  ⟨encode_rho, fun _ hinv => exec_permuted_of_rule rfl hinv isArray_rho⟩

/-- Settles O31: permuting the lanes has the bits of R97. -/
theorem piCommand : Obligations.PiCommand :=
  ⟨encode_pi, fun _ hinv => exec_permuted_of_rule rfl hinv isArray_pi⟩

/-- Settles O32: combining the lanes of a row, all read from the old array, has the bits of R98. -/
theorem chiCommand : Obligations.ChiCommand :=
  ⟨encode_chi, fun _ hinv => exec_permuted_of_rule rfl hinv isArray_chi⟩

/-- Settles O34: the round composes the sub-steps as R100 composes the rules. -/
theorem roundCommand : Obligations.RoundCommand :=
  ⟨encode_round, fun s ir hinv => exec_permuted_of_rule rfl hinv fun h => isArray_rnd h s.L.toNat ir.toNat⟩

end Sys2Proof.Proofs
end

section
/-! PROOFS. SNEW, SNEWC and ABSORB (42_sponge.md R124 to R126): what decides each check, and the command in each case. -/

namespace Sys2Proof.Laws

open Sys2Proof.Machine

/-! ### The checks -/

/-- The suffix has no bit at or above its length, said of every index: the register ends at bit 6 anyway. -/
theorem suffixFits_iff_forall (sfxlen : BitVec 3) (sfx : BitVec 7) :
    WellFormed.suffixFits sfxlen sfx = true ↔ ∀ i, sfxlen.toNat ≤ i → sfx.getLsbD i = false := by
  rw [suffixFits_iff]
  refine ⟨fun h i hi => ?_, fun h i _ hi => h i hi⟩
  by_cases h7 : i < 7
  · exact h i h7 hi
  · exact BitVec.getLsbD_of_ge _ _ (by omega)

/-- No data byte beyond the count, said of every index: beyond the third byte there is none. -/
theorem dataFits_iff_forall (cnt : BitVec 2) (d0 d1 d2 : Byte) :
    WellFormed.dataFits cnt d0 d1 d2 = true ↔ ∀ i, cnt.toNat ≤ i → [d0, d1, d2].getD i 0#8 = 0#8 := by
  refine (dataFits_iff cnt fun i => [d0, d1, d2].getD i 0#8).trans ⟨fun h i hi => ?_, fun h i _ hi => h i hi⟩
  by_cases h3 : i < 3
  · exact h i h3 hi
  · exact List.getD_eq_default _ _ (by simpa using h3)

theorem validRate_iff (rate : BitVec 11) :
    validRate rate = true ↔ 0 < rate.toNat ∧ rate.toNat < 1600 ∧ rate.toNat % 8 = 0 := by
  simp [validRate, and_assoc]

/-- A message of `n` bytes fits where MSG_CAP is unbounded or at least `n` (10_state.md R26). -/
theorem fitsCap_iff (cfg : Config) (n : Nat) :
    fitsCap cfg n = true ↔ ∀ cap, cfg.msgCap = some cap → n ≤ cap := by
  unfold fitsCap
  split <;> simp [*]

end Sys2Proof.Laws

namespace Sys2Proof.Machine

/-! ### SNEW -/

theorem exec_snew_of_row {p : BitVec 3} {row : ProfileRow} (s : State) (h : profileRow p = some row) :
    exec (.snew p) s = .next ((s.installSponge row p).succeededWith 0#32 []) := by
  simp only [exec, execSnew, h]
  rfl

theorem exec_snew_of_reserved {p : BitVec 3} (s : State) (h : profileRow p = none) :
    exec (.snew p) s = .next (s.failedWith 4) := by
  simp only [exec, execSnew, h]
  rfl

/-- p = 6 and p = 7 are no profiles (30_encoding.md R67). -/
theorem profileRow_of_ge : ∀ p : BitVec 3, 6 ≤ p.toNat → profileRow p = none := by decide

/-! ### SNEWC -/

section
variable {rate : BitVec 11} {sfxlen : BitVec 3} {sfx : BitVec 7} (s : State)

theorem exec_snewc_of_not_suffixFits (h : WellFormed.suffixFits sfxlen sfx = false) :
    exec (.snewc rate sfxlen sfx) s = .next (s.failedWith 4) := by
  simp only [exec, execSnewc, suffixForm, h]
  rfl

theorem exec_snewc_of_not_validRate (h : WellFormed.suffixFits sfxlen sfx = true) (hr : validRate rate = false) :
    exec (.snewc rate sfxlen sfx) s = .next (s.failedWith 2) := by
  simp only [exec, execSnewc, suffixForm, rateCheck, h, hr]
  rfl

theorem exec_snewc_of_valid (h : WellFormed.suffixFits sfxlen sfx = true) (hr : validRate rate = true) :
    exec (.snewc rate sfxlen sfx) s =
      .next ((s.installSponge ⟨rate, sfxlen, sfx, 0#10⟩ 7#3).succeededWith 0#32 []) := by
  simp only [exec, execSnewc, suffixForm, rateCheck, h, hr]
  rfl

end

/-! ### ABSORB -/

section
variable {cnt : BitVec 2} {d0 d1 d2 : Byte} {s : State}

theorem exec_absorb_of_not_dataFits (h : WellFormed.dataFits cnt d0 d1 d2 = false) :
    exec (.absorb cnt d0 d1 d2) s = .next (s.failedWith 4) := by
  simp only [exec, execAbsorb, dataForm, h]
  rfl

variable (hwf : WellFormed.dataFits cnt d0 d1 d2 = true) (hm : s.mode = .sponge) (hp : s.phase = .absorbing)
include hwf hm hp

/-- In the Absorbing phase only the capacity is left to check. -/
theorem absorbCheck_of_absorbing :
    ((dataForm cnt d0 d1 d2).or (absorbingOnly s)).or (capacityCheck s cnt) = capacityCheck s cnt := by
  rw [dataForm_of_wellFormed hwf, (absorbingOnly_eq_none s).mpr ⟨hm, hp⟩, Option.or_none, Option.none_or]

theorem exec_absorb_of_not_fitsCap (hc : fitsCap s.cfg (s.msg.length + cnt.toNat) = false) :
    exec (.absorb cnt d0 d1 d2) s = .next (s.failedWith 6) := by
  rw [exec, execAbsorb, absorbCheck_of_absorbing hwf hm hp, capacityCheck, hc]
  rfl

theorem exec_absorb_of_fitsCap (hc : fitsCap s.cfg (s.msg.length + cnt.toNat) = true) :
    exec (.absorb cnt d0 d1 d2) s = .next ((s.append (absorbBytes cnt d0 d1 d2)).succeededWith 0#32 []) := by
  rw [exec, execAbsorb, absorbCheck_of_absorbing hwf hm hp, capacityCheck, hc]
  rfl

end

end Sys2Proof.Machine

namespace Sys2Proof.Proofs

open Sys2Proof.Machine Sys2Proof.Laws

/-- Settles O45: the rows of R120 are the model's profile table, and 6 and 7 have no row. -/
theorem snewCommand : Obligations.SnewCommand := by
  refine ⟨encode_snew, fun s p => ⟨fun row hrow hp => ?_, fun hp => exec_snew_of_reserved s (profileRow_of_ge p hp)⟩⟩
  have htable : profileRow p = some ⟨row.2.1, row.2.2.1, row.2.2.2.1, row.2.2.2.2⟩ := by
    subst hp
    fin_cases hrow <;> rfl
  exact exec_snew_of_row s htable

/-- Settles O46: the suffix is checked first, then the rate. -/
theorem snewcCommand : Obligations.SnewcCommand := by
  refine ⟨encode_snewc, fun s rate sfxlen sfx =>
    ⟨fun ⟨i, hi, hbit⟩ => ?_, fun hfits => ⟨fun hr => ?_, fun h0 h1 h8 => ?_⟩⟩⟩
  · refine exec_snewc_of_not_suffixFits s (Bool.eq_false_iff.mpr fun h => ?_)
    simp [(suffixFits_iff_forall sfxlen sfx).mp h i hi] at hbit
  · refine exec_snewc_of_not_validRate s ((suffixFits_iff_forall sfxlen sfx).mpr hfits) (Bool.eq_false_iff.mpr fun h => ?_)
    obtain ⟨h0, h1, h8⟩ := (validRate_iff rate).mp h
    omega
  · exact exec_snewc_of_valid s ((suffixFits_iff_forall sfxlen sfx).mpr hfits) ((validRate_iff rate).mpr ⟨h0, h1, h8⟩)

/-- Settles O47: the form is checked first, then mode and phase, then the capacity. -/
theorem absorbCommand : Obligations.AbsorbCommand := by
  refine ⟨encode_absorb, fun s cnt d0 d1 d2 => ⟨fun ⟨i, hi, hne⟩ => ?_, fun hfits => ?_⟩⟩
  · exact exec_absorb_of_not_dataFits
      (Bool.eq_false_iff.mpr fun h => hne ((dataFits_iff_forall cnt d0 d1 d2).mp h i hi))
  have hwf : WellFormed.dataFits cnt d0 d1 d2 = true := (dataFits_iff_forall cnt d0 d1 d2).mpr hfits
  refine ⟨fun hm => ?_, fun hm hp => ?_, fun hm hp ⟨cap, hcap, hlt⟩ => ?_, fun hm hp hcap => ?_⟩
  · exact (exec_absorb_of_mode_error hwf (absorbingOnly_of_ne s hm)).trans (raise_eq _ s)
  · exact (exec_absorb_of_mode_error hwf (absorbingOnly_squeezing s hm hp)).trans (raise_eq _ s)
  · refine exec_absorb_of_not_fitsCap hwf hm hp (Bool.eq_false_iff.mpr fun h => ?_)
    exact Nat.not_le.mpr hlt ((fitsCap_iff _ _).mp h cap hcap)
  · exact exec_absorb_of_fitsCap hwf hm hp ((fitsCap_iff _ _).mpr hcap)

end Sys2Proof.Proofs
end

section
/-! PROOFS. The padding and the padded message (42_sponge.md R122, R123, R127): their lengths and their bits. -/

namespace Sys2Proof.Machine

/-! ### pad10*1 (R123) -/

theorem padZeros_lt {r : Nat} (m : Nat) (hr : 0 < r) : padZeros r m < r := by
  have h0 := Int.emod_nonneg (-(m : Int) - 2) (b := r) (by omega)
  have h1 := Int.emod_lt_of_pos (-(m : Int) - 2) (b := r) (by omega)
  unfold padZeros
  omega

/-- The padding fills up the last block. -/
theorem add_padZeros_emod {r : Nat} (m : Nat) (hr : 0 < r) : ((m : Int) + (padZeros r m : Int) + 2) % (r : Int) = 0 := by
  have h0 := Int.emod_nonneg (-(m : Int) - 2) (b := r) (by omega)
  have hj : (padZeros r m : Int) = (-(m : Int) - 2) % r := Int.toNat_of_nonneg h0
  have hdiv := Int.emod_add_mul_ediv (-(m : Int) - 2) r
  have hmul : (m : Int) + padZeros r m + 2 = r * -((-(m : Int) - 2) / r) := by
    rw [Int.mul_neg]
    omega
  rw [hmul, Int.mul_emod_right]

theorem dvd_add_padZeros {r : Nat} (m : Nat) (hr : 0 < r) : r ∣ m + padZeros r m + 2 := by
  have h := Int.dvd_of_emod_eq_zero (add_padZeros_emod m hr)
  exact_mod_cast h

/-- No shorter padding ends at a multiple of the rate. -/
theorem add_padZeros_le {r m k : Nat} (hr : 0 < r) (hk : r ∣ k) (hle : m + 2 ≤ k) : m + padZeros r m + 2 ≤ k := by
  by_contra hlt
  have hgap : r ≤ m + padZeros r m + 2 - k :=
    Nat.le_of_dvd (by omega) (Nat.dvd_sub (dvd_add_padZeros m hr) hk)
  have := padZeros_lt m hr
  omega

/-- The padded length by the number of blocks (R127). -/
theorem add_padZeros_eq {r : Nat} (m : Nat) (hr : 0 < r) : m + padZeros r m + 2 = ((m + 1) / r + 1) * r := by
  have hlt : m + 1 < ((m + 1) / r + 1) * r := by
    have := Nat.lt_mul_div_succ (m + 1) hr
    rwa [Nat.mul_comm] at this
  have hle : (m + 1) / r * r ≤ m + 1 := Nat.div_mul_le_self _ _
  refine Nat.le_antisymm (add_padZeros_le hr (Nat.dvd_mul_left _ _) hlt) ?_
  obtain ⟨q, hq⟩ := dvd_add_padZeros m hr
  have hqlt : (m + 1) / r < q := Nat.div_lt_of_lt_mul (by omega)
  rw [hq, Nat.mul_comm r]
  exact Nat.mul_le_mul_right r hqlt

@[simp] theorem pad_length (r m : Nat) : (pad r m).length = padZeros r m + 2 := by simp [pad]

theorem pad_getD (r m i : Nat) : (pad r m).getD i false = (decide (i = 0) || decide (i = padZeros r m + 1)) := by
  cases i with
  | zero => simp [pad]
  | succ i =>
    rw [pad, List.getD_cons_succ]
    by_cases h : i < padZeros r m
    · rw [List.getD_append _ _ _ _ (by simpa using h)]
      simp [h, Nat.ne_of_lt h]
    · rw [List.getD_append_right _ _ _ _ (by simpa using h)]
      by_cases h' : i = padZeros r m
      · simp [h']
      · have : i - padZeros r m ≠ 0 := by omega
        simp [h', List.getD_eq_getElem?_getD, this]

/-! ### Message and suffix (R122) -/

@[simp] theorem byteBits_length (v : Byte) : (byteBits v).length = 8 := by simp [byteBits]

theorem byteBits_getD (v : Byte) (i : Nat) : (byteBits v).getD i false = v.getLsbD i := by
  by_cases h : i < 8
  · simp [byteBits, h]
  · rw [List.getD_eq_default _ _ (by simpa using h), BitVec.getLsbD_of_ge _ _ (by omega)]

@[simp] theorem messageBits_length (msg : List Byte) : (messageBits msg).length = 8 * msg.length := by
  induction msg with
  | nil => rfl
  | cons v vs ih =>
    rw [messageBits, List.flatMap_cons, List.length_append, byteBits_length, ← messageBits, ih, List.length_cons]
    omega

theorem messageBits_getD (msg : List Byte) (i : Nat) :
    (messageBits msg).getD i false = (msg.getD (i / 8) 0#8).getLsbD (i % 8) := by
  induction msg generalizing i with
  | nil => simp [messageBits]
  | cons v vs ih =>
    rw [messageBits, List.flatMap_cons, ← messageBits]
    by_cases h : i < 8
    · rw [List.getD_append _ _ _ _ (by simpa using h), byteBits_getD, Nat.div_eq_of_lt h, Nat.mod_eq_of_lt h,
        List.getD_cons_zero]
    · rw [List.getD_append_right _ _ _ _ (by simpa using h), byteBits_length, ih, ← Nat.mod_eq_sub_mod (by omega),
        Nat.div_eq_sub_div (a := i) (b := 8) (by decide) (by omega), List.getD_cons_succ]

@[simp] theorem suffixBits_length (sfxLen : BitVec 3) (sfx : BitVec 7) : (suffixBits sfxLen sfx).length = sfxLen.toNat := by
  simp [suffixBits]

theorem suffixBits_getD {sfxLen : BitVec 3} (sfx : BitVec 7) {i : Nat} (h : i < sfxLen.toNat) :
    (suffixBits sfxLen sfx).getD i false = sfx.getLsbD i := by
  simp [suffixBits, h]

@[simp] theorem suffixedMessage_length (sfxLen : BitVec 3) (sfx : BitVec 7) (msg : List Byte) :
    (suffixedMessage sfxLen sfx msg).length = 8 * msg.length + sfxLen.toNat := by
  simp [suffixedMessage]

/-! ### The padded message (R127) -/

section
variable {rate : Nat} (sfxLen : BitVec 3) (sfx : BitVec 7) (msg : List Byte) (hr : 0 < rate)
include hr

theorem paddedMessage_length : (paddedMessage rate sfxLen sfx msg).length =
    ((8 * msg.length + sfxLen.toNat + 1) / rate + 1) * rate := by
  rw [paddedMessage, List.length_append, pad_length, suffixedMessage_length, ← add_padZeros_eq _ hr]
  exact (Nat.add_assoc ..).symm

theorem paddedMessage_getD (i : Nat) :
    (paddedMessage rate sfxLen sfx msg).getD i false = paddedBitRule rate sfxLen sfx msg i := by
  rw [paddedMessage, suffixedMessage_length, paddedBitRule]
  split
  · next hmsg =>
    rw [List.getD_append _ _ _ _ (by rw [suffixedMessage_length]; omega), suffixedMessage,
      List.getD_append _ _ _ _ (by simpa using hmsg), messageBits_getD]
  · split
    · next hmsg hsfx =>
      rw [List.getD_append _ _ _ _ (by simpa using hsfx), suffixedMessage,
        List.getD_append_right _ _ _ _ (by simpa using hmsg), messageBits_length, suffixBits_getD sfx (by omega)]
    · next hmsg hsfx =>
      rw [List.getD_append_right _ _ _ _ (by simpa using hsfx), suffixedMessage_length, pad_getD,
        ← add_padZeros_eq _ hr]
      congr 2 <;> simp only [eq_iff_iff] <;> omega

end

end Sys2Proof.Machine

namespace Sys2Proof.Proofs

open Sys2Proof.Machine

/-- Settles O48, with j the residue of R123. -/
theorem paddingIsMinimal : Obligations.PaddingIsMinimal := by
  refine fun r m hr => ⟨padZeros r m, padZeros_lt m hr, rfl, add_padZeros_emod m hr, fun k hk hle => ?_⟩
  rw [pad_length, ← Nat.add_assoc]
  exact add_padZeros_le hr hk hle

/-- Settles O49, by the bits of the message, the suffix and the padding. -/
theorem paddedMessageBits : Obligations.PaddedMessageBits :=
  fun _ sfxLen sfx msg hr => ⟨paddedMessage_length sfxLen sfx msg hr, fun i _ => paddedMessage_getD sfxLen sfx msg hr i⟩

end Sys2Proof.Proofs
end

section
/-! PROOFS. Finalization (42_sponge.md R128, R129): the blocks of the padded message as arrays, and the commands that
finalize. -/

namespace Sys2Proof.Machine

/-! ### Blocks -/

/-- Block `k` of a bit string, as the array it is XORed with (R129). -/
def blockAt (rate : Nat) (P : List Bool) (k : Nat) : Bits := bitsOf ((P.drop (k * rate)).take rate)

theorem blockAt_zero (rate : Nat) (P : List Bool) : blockAt rate P 0 = bitsOf (P.take rate) := by simp [blockAt]

theorem blockAt_succ (rate : Nat) (P : List Bool) (k : Nat) : blockAt rate P (k + 1) = blockAt rate (P.drop rate) k := by
  rw [blockAt, blockAt, List.drop_drop, Nat.succ_mul, Nat.add_comm]

theorem getLsbD_blockAt (rate : Nat) (P : List Bool) (k : Nat) {i : Nat} (hi : i < 1600) :
    (blockAt rate P k).getLsbD i = (decide (i < rate) && P.getD (k * rate + i) false) := by
  rw [blockAt, getLsbD_bitsOf _ i hi]
  by_cases h : i < rate <;> simp [List.getD_eq_getElem?_getD, h]

/-- One block absorbed, the rest to come. The equation is proved for any block function in place of `absorbBlock`: with the
permutation in sight the kernel would run its rounds to compare the two sides. -/
theorem absorbBlocks_succ (rate n : Nat) (P : List Bool) (A : Bits) :
    absorbBlocks rate (n + 1) P A = absorbBlocks rate n (P.drop rate) (absorbBlock A (P.take rate)) := by
  delta absorbBlocks absorbBlocks._f
  generalize absorbBlock = f
  rfl

/-- Absorbing is a fold over the blocks, in order (R128). -/
theorem absorbBlocks_eq_foldl (rate n : Nat) (P : List Bool) (A : Bits) :
    absorbBlocks rate n P A =
      ((List.range n).map (blockAt rate P)).foldl (fun A block => keccakF1600 (A ^^^ block)) A := by
  induction n generalizing P A with
  | zero => rfl
  | succ n ih =>
    rw [absorbBlocks_succ, ih, List.range_succ_eq_map, List.map_cons, List.map_map, List.foldl_cons, blockAt_zero, absorbBlock]
    congr 1
    exact List.map_congr_left fun k _ => (blockAt_succ rate P k).symm

/-- The number of blocks of the padded message in `s` (R127). -/
def State.blockCount (s : State) : Nat := (8 * s.msg.length + s.sfxLen.toNat + 1) / s.rate.toNat + 1

/-- The blocks of the padded message in `s`, first block first. -/
def State.paddedBlocks (s : State) : List Bits :=
  (List.range s.blockCount).map (blockAt s.rate.toNat (paddedMessage s.rate.toNat s.sfxLen s.sfx s.msg))

@[simp] theorem State.paddedBlocks_length (s : State) : s.paddedBlocks.length = s.blockCount := by
  simp [State.paddedBlocks]

section
variable {s : State} (hr : 0 < s.rate.toNat)
include hr

theorem State.getLsbD_paddedBlocks {k i : Nat} (hk : k < s.blockCount) (hi : i < 1600) :
    (s.paddedBlocks.getD k 0#1600).getLsbD i =
      (decide (i < s.rate.toNat) && paddedBitRule s.rate.toNat s.sfxLen s.sfx s.msg (k * s.rate.toNat + i)) := by
  have hblock : s.paddedBlocks.getD k 0#1600 =
      blockAt s.rate.toNat (paddedMessage s.rate.toNat s.sfxLen s.sfx s.msg) k := by
    simp [State.paddedBlocks, hk]
  rw [hblock, getLsbD_blockAt _ _ _ hi, paddedMessage_getD _ _ _ hr]

/-- finalize() with its blocks written out (R128, R129). -/
theorem State.finalize_eq_foldl : s.finalize =
    { s with A := s.paddedBlocks.foldl (fun A block => keccakF1600 (A ^^^ block)) s.A, phase := .squeezing,
             sqOff := 0#8, msg := [] } := by
  have hcount : (paddedMessage s.rate.toNat s.sfxLen s.sfx s.msg).length / s.rate.toNat = s.blockCount := by
    rw [paddedMessage_length _ _ _ hr, Nat.mul_div_cancel _ hr, State.blockCount]
  have hA : finalArray s = s.paddedBlocks.foldl (fun A block => keccakF1600 (A ^^^ block)) s.A := by
    rw [finalArray, hcount, absorbBlocks_eq_foldl, State.paddedBlocks]
  rw [State.finalize, hA]

end

/-! ### The commands that squeeze -/

section
variable {s : State} (hm : s.mode = .sponge)
include hm

theorem exec_squeeze_of_sponge (n : BitVec 16) (hp : s.phase ≠ .none) :
    exec (.squeeze n) s = squeezeEffect n.toNat s := by
  simp only [exec, execSqueeze, (spongeOnly_eq_none s).mpr ⟨hm, hp⟩]

theorem exec_digest_of_sponge (h0 : s.outBits ≠ 0#10) (hp : s.phase ≠ .none) :
    exec .digest s = squeezeEffect (s.outBits.toNat / 8) s := by
  simp only [exec, execDigest, (fixedOutputOnly_eq_none s).mpr ⟨h0, hm, hp⟩]

end

/-- A squeeze in the Absorbing phase is finalize() and then the squeeze (R131). -/
theorem squeezeEffect_finalize (n : Nat) {s : State} (hp : s.phase = .absorbing) :
    squeezeEffect n s = squeezeEffect n s.finalize := by
  rw [squeezeEffect, squeezeEffect, beginSqueeze_absorbing s hp, beginSqueeze_squeezing s.finalize rfl]

section
variable {s : State} (hm : s.mode = .sponge) (hp : s.phase = .absorbing)
include hm hp

theorem exec_squeeze_finalize (n : BitVec 16) :
    ∃ t, exec (.squeeze n) s = .next t ∧ exec (.squeeze n) s.finalize = .next t := by
  have h : exec (.squeeze n) s = squeezeEffect n.toNat s.finalize :=
    (exec_squeeze_of_sponge hm n (by simp [hp])).trans (squeezeEffect_finalize _ hp)
  exact ⟨_, h, exec_squeeze_of_sponge (s := s.finalize) hm n (by simp)⟩

theorem exec_digest_finalize (h0 : s.outBits ≠ 0#10) :
    ∃ t, exec .digest s = .next t ∧ exec .digest s.finalize = .next t := by
  have h : exec .digest s = squeezeEffect (s.outBits.toNat / 8) s.finalize :=
    (exec_digest_of_sponge hm h0 (by simp [hp])).trans (squeezeEffect_finalize _ hp)
  exact ⟨_, h, exec_digest_of_sponge (s := s.finalize) hm h0 (by simp)⟩

/-- SQUEEZE 0 is finalize() and nothing else (R71, R131). -/
theorem exec_squeeze_zero : exec (.squeeze 0#16) s = .next (s.finalize.succeededWith 0#32 []) := by
  rw [exec_squeeze_of_sponge hm _ (by simp [hp]), squeezeEffect_finalize _ hp]
  rfl

omit hm in
/-- Any other command leaves the Absorbing phase as it was or ends the sponge. -/
theorem phase_ne_squeezing_of_exec {i : Instr} {t : State} (ht : exec i s = .next t) (hsq : ∀ n, i ≠ .squeeze n)
    (hd : i ≠ .digest) : t.phase ≠ .squeezing := by
  obtain ⟨e, h⟩ | ⟨-, h⟩ | ⟨val, -, h⟩ | ⟨b, nr, -, -, h⟩ | ⟨x, y, z, v, -, -, -, -, -, h⟩ | ⟨A, -, -, h⟩ |
    ⟨p, row, -, -, h⟩ | ⟨rate, sfxlen, sfx, -, -, -, h⟩ | ⟨cnt, d0, d1, d2, -, -, -, -, h⟩ | ⟨n, hi, -, -, -⟩ :=
    exec_cases i s
  on_goal 10 =>
    obtain ⟨m, rfl, -⟩ | ⟨rfl, -⟩ := hi
    · exact absurd rfl (hsq m)
    · exact absurd rfl hd
  all_goals
    rw [h] at ht
    cases ht
    simp [hp]

end

/-! ### What the invariant says of a sponge -/

section
variable {s : State} (hinv : s.Inv) (hm : s.mode = .sponge)
include hinv hm

theorem State.rate_of_sponge : 0 < s.rate.toNat ∧ s.rate.toNat < 1600 ∧ s.rate.toNat % 8 = 0 := by
  obtain ⟨-, -, hsponge⟩ := hinv
  obtain ⟨-, -, -, -, hrate, -⟩ := hsponge hm
  exact (Laws.validRate_iff s.rate).mp hrate

theorem State.phaseShape_of_sponge : PhaseShape s := by
  obtain ⟨-, -, hsponge⟩ := hinv
  obtain ⟨-, -, -, -, -, -, -, -, hphase⟩ := hsponge hm
  exact hphase

end

end Sys2Proof.Machine

namespace Sys2Proof.Proofs

open Sys2Proof.Machine

/-- Settles O51: the blocks are those of the padded message, and SQUEEZE and DIGEST are the same from the finalized state. -/
theorem firstSqueezeFinalizes : Obligations.FirstSqueezeFinalizes := by
  intro s n hinv hm hp
  obtain ⟨hr, -, -⟩ := State.rate_of_sponge hinv hm
  refine ⟨s.paddedBlocks, s.paddedBlocks_length, fun k hk i hi => ?_, ?_⟩
  · exact State.getLsbD_paddedBlocks hr (s.paddedBlocks_length ▸ hk) hi
  intro f
  have hf : f = s.finalize := (State.finalize_eq_foldl hr).symm
  rw [hf]
  exact ⟨exec_squeeze_finalize hm hp n, exec_squeeze_zero hm hp, exec_digest_finalize hm hp,
    fun i t ht hsq hd => phase_ne_squeezing_of_exec hp ht hsq hd⟩

end Sys2Proof.Proofs
end

section
/-! PROOFS. The output (42_sponge.md R131, R132, R136): the squeeze stream of an array, byte by byte, and the two commands
that return it. -/

namespace Sys2Proof.Machine

/-! ### The squeeze stream -/

/-- Byte `t` of the stream from the array `A` with blocks of `r8` bytes (R132). -/
def streamByte (r8 : Nat) (A : Bits) (t : Nat) : Byte := outByte (keccakF1600^[t / r8] A) (t % r8)

/-- Where the loop stands when `t` bytes of the stream have been taken: a block used up is kept until a byte of the next one
is needed, so SQOFF is in 1..r8 but at the very beginning (R132). -/
def streamPos (r8 : Nat) (A : Bits) : Nat → SqueezePos
  | 0 => ⟨A, 0#8⟩
  | t + 1 => ⟨keccakF1600^[t / r8] A, BitVec.ofNat 8 (t % r8 + 1)⟩

/-- With SQOFF at most the size of a block, as the invariant has it, the position is one in the stream from the array. -/
theorem streamPos_sqOff {r8 : Nat} (A : Bits) {off : BitVec 8} (h : off.toNat ≤ r8) :
    streamPos r8 A off.toNat = ⟨A, off⟩ := by
  cases hoff : off.toNat with
  | zero =>
    rw [streamPos, BitVec.eq_of_toNat_eq (x := off) (y := 0#8) hoff]
  | succ k =>
    rw [streamPos, Nat.div_eq_of_lt (by omega), Nat.mod_eq_of_lt (by omega), ← hoff, BitVec.ofNat_toNat,
      BitVec.setWidth_eq, Function.iterate_zero_apply]

section
variable {rate : Nat} (hpos : 0 < rate / 8) (hlt : rate / 8 < 256) (A : Bits)
include hpos hlt

/-- The position the next byte is taken from (R132): a block is left exactly when `t + 1` bytes end it. -/
theorem nextBlock_streamPos (t : Nat) : nextBlock rate (streamPos (rate / 8) A t) =
    ⟨keccakF1600^[t / (rate / 8)] A, BitVec.ofNat 8 (t % (rate / 8))⟩ := by
  cases t with
  | zero => simp [streamPos, nextBlock, hpos.ne]
  | succ t =>
    have hmod : t % (rate / 8) < rate / 8 := Nat.mod_lt t hpos
    have hdiv : rate / 8 * (t / (rate / 8)) + t % (rate / 8) = t := Nat.div_add_mod t _
    have hoff : (BitVec.ofNat 8 (t % (rate / 8) + 1)).toNat = t % (rate / 8) + 1 := by
      rw [BitVec.toNat_ofNat, Nat.mod_eq_of_lt (by omega)]
    rw [streamPos, nextBlock, hoff]
    split
    · next hend =>
      have ht : t + 1 = rate / 8 * (t / (rate / 8) + 1) := by
        rw [Nat.mul_succ]
        omega
      rw [ht, Nat.mul_div_cancel_left _ hpos, Nat.mul_mod_right, Function.iterate_succ_apply']
    · next hend =>
      have ht : t + 1 = rate / 8 * (t / (rate / 8)) + (t % (rate / 8) + 1) := by omega
      have hlast : t % (rate / 8) + 1 < rate / 8 := by omega
      have hquot : (t + 1) / (rate / 8) = t / (rate / 8) := by
        conv_lhs => rw [ht, Nat.mul_add_div hpos, Nat.div_eq_of_lt hlast, Nat.add_zero]
      have hrem : (t + 1) % (rate / 8) = t % (rate / 8) + 1 := by
        conv_lhs => rw [ht, Nat.mul_add_mod, Nat.mod_eq_of_lt hlast]
      rw [hquot, hrem]

/-- The loop from byte `t` on emits the next `n` bytes of the stream (R131). -/
theorem squeezeLoop_streamPos (n t : Nat) : squeezeLoop rate n (streamPos (rate / 8) A t) =
    ((List.range' t n).map (streamByte (rate / 8) A), streamPos (rate / 8) A (t + n)) := by
  induction n generalizing t with
  | zero => rfl
  | succ n ih =>
    have hoff : (BitVec.ofNat 8 (t % (rate / 8))).toNat = t % (rate / 8) := by
      rw [BitVec.toNat_ofNat, Nat.mod_eq_of_lt (Nat.lt_trans (Nat.mod_lt t hpos) hlt)]
    have hadv : SqueezePos.advance ⟨keccakF1600^[t / (rate / 8)] A, BitVec.ofNat 8 (t % (rate / 8))⟩ =
        streamPos (rate / 8) A (t + 1) := by
      rw [SqueezePos.advance, streamPos, BitVec.ofNat_add]
    rw [squeezeLoop, nextBlock_streamPos hpos hlt, hadv, ih, hoff, List.range'_succ, List.map_cons, streamByte,
      Nat.add_right_comm, Nat.add_assoc]

/-- The number of permutations up to the position after `n` more bytes, and what SQOFF counts there (R132). -/
theorem streamPos_add {off : BitVec 8} (h : off.toNat ≤ rate / 8) (n : Nat) : ∃ off' : BitVec 8,
    streamPos (rate / 8) A (off.toNat + n) =
      ⟨keccakF1600^[if n = 0 then 0 else (off.toNat + n - 1) / (rate / 8)] A, off'⟩ ∧
    off'.toNat + (if n = 0 then 0 else (off.toNat + n - 1) / (rate / 8)) * (rate / 8) = off.toNat + n := by
  cases n with
  | zero => exact ⟨off, streamPos_sqOff A h, by simp⟩
  | succ n =>
    have hmod : (off.toNat + n) % (rate / 8) < rate / 8 := Nat.mod_lt _ hpos
    have hdiv : (off.toNat + n) / (rate / 8) * (rate / 8) + (off.toNat + n) % (rate / 8) = off.toNat + n :=
      Nat.div_add_mod' _ _
    refine ⟨BitVec.ofNat 8 ((off.toNat + n) % (rate / 8) + 1), by simp [← Nat.add_assoc, streamPos], ?_⟩
    rw [BitVec.toNat_ofNat, Nat.mod_eq_of_lt (by omega), if_neg n.succ_ne_zero, ← Nat.add_assoc, Nat.add_sub_cancel]
    omega

end

theorem squeezeLoop_length (rate n : Nat) (p : SqueezePos) : (squeezeLoop rate n p).1.length = n := by
  induction n generalizing p with
  | zero => rfl
  | succ n ih => rw [squeezeLoop, List.length_cons, ih]

/-! ### The commands that squeeze -/

/-- A squeeze leaves the Squeezing phase, as many bytes as asked for, and one response (R131). -/
theorem squeezeEffect_next (n : Nat) {s : State} (hp : s.phase ≠ .none) :
    ∃ t dout, squeezeEffect n s = .next t ∧ t.phase = .squeezing ∧ t.responses = s.responses ++ [⟨0#4, 0#32, dout⟩] ∧
      dout.length = n := by
  have hphase : s.beginSqueeze.phase = .squeezing := by
    cases h : s.phase with
    | none => exact absurd h hp
    | absorbing => simp [beginSqueeze_absorbing s h]
    | squeezing => rw [beginSqueeze_squeezing s h, h]
  obtain ⟨-, hresp⟩ := s.beginSqueeze_keeps
  refine ⟨_, (squeezeLoop s.beginSqueeze.rate.toNat n ⟨s.beginSqueeze.A, s.beginSqueeze.sqOff⟩).1, rfl, hphase, ?_,
    squeezeLoop_length _ _ _⟩
  rw [← hresp]
  rfl

/-- A squeeze in the Squeezing phase, by the stream from the array (R131, R132). -/
theorem squeezeEffect_squeezing {s : State} (n : Nat) (hp : s.phase = .squeezing) (hpos : 0 < s.rate.toNat / 8)
    (hlt : s.rate.toNat / 8 < 256) (hoff : s.sqOff.toNat ≤ s.rate.toNat / 8) :
    squeezeEffect n s = .next ((s.withPos (streamPos (s.rate.toNat / 8) s.A (s.sqOff.toNat + n))).succeededWith 0#32
      ((List.range' s.sqOff.toNat n).map (streamByte (s.rate.toNat / 8) s.A))) := by
  rw [squeezeEffect, beginSqueeze_squeezing s hp, ← streamPos_sqOff s.A hoff, squeezeLoop_streamPos hpos hlt]
  rfl

end Sys2Proof.Machine

namespace Sys2Proof.Proofs

open Sys2Proof.Machine Sys2Proof.Laws

/-- Settles O52: the loop runs along the squeeze stream from SQOFF on. -/
theorem squeezeCommand : Obligations.SqueezeCommand := by
  refine ⟨encode_squeeze, fun s n hinv => ⟨fun hm hp => ?_, fun hm hp => exec_squeeze_finalize hm hp n, fun hm => ?_⟩⟩
  · intro r8 off perms
    obtain ⟨hr0, hr1, hr8⟩ := State.rate_of_sponge hinv hm
    obtain ⟨-, -, hsq⟩ := State.phaseShape_of_sponge hinv hm
    obtain ⟨-, hoff⟩ := hsq hp
    have hpos : 0 < s.rate.toNat / 8 := by omega
    have hlt : s.rate.toNat / 8 < 256 := by omega
    obtain ⟨off', hend, hcount⟩ := streamPos_add hpos hlt s.A hoff n.toNat
    refine ⟨(List.range' off n.toNat).map (streamByte r8 s.A), off', ?_, hcount, by simp, fun k hk i hi => ?_⟩
    · rw [exec_squeeze_of_sponge hm n (by simp [hp]), squeezeEffect_squeezing _ hp hpos hlt hoff, hend]
      rfl
    · have hbyte : ((List.range' off n.toNat).map (streamByte r8 s.A)).getD k 0#8 = streamByte r8 s.A (off + k) := by
        simp [hk]
      rw [hbyte, streamByte, getLsbD_outByte, decide_eq_true hi, Bool.true_and]
  · exact (exec_squeeze_of_ne hm).trans (raise_eq _ s)

/-- Settles O53: DIGEST and SQUEEZE have the same effect once their checks pass. -/
theorem digestCommand : Obligations.DigestCommand := by
  refine ⟨encode_digest, fun s hinv => ⟨fun hm h0 => ?_, fun _ h0 => ?_, fun hm => ?_⟩⟩
  · obtain ⟨hp, -⟩ := State.phaseShape_of_sponge hinv hm
    have hn : (BitVec.ofNat 16 (s.outBits.toNat / 8)).toNat = s.outBits.toNat / 8 := by
      rw [BitVec.toNat_ofNat, Nat.mod_eq_of_lt (by omega)]
    rw [exec_digest_of_sponge hm h0 hp, exec_squeeze_of_sponge hm _ hp, hn]
    exact ⟨rfl, squeezeEffect_next _ hp⟩
  · exact (exec_digest_of_ne (.inl h0)).trans (raise_eq _ s)
  · exact (exec_digest_of_ne (.inr hm)).trans (raise_eq _ s)

end Sys2Proof.Proofs
end

section
/-! PROOFS. The words of the commands that HASH and XOF issue decode to them (30_encoding.md R63 to R67). -/

namespace Sys2Proof.Laws

/-- Below the opcode field a command's word holds its operands only. -/
theorem field_encode (i : Instr) {lo len : Nat} (h : lo + len ≤ 26) :
    field (encode i) lo len = field i.operandBits lo len := by
  refine BitVec.eq_of_getLsbD_eq fun j hj => ?_
  have h26 : lo + j < 26 := by omega
  simp [getLsbD_field, encode, getLsbD_place, h26]

theorem field_or (v w : Word) (lo len : Nat) : field (v ||| w) lo len = field v lo len ||| field w lo len := by
  refine BitVec.eq_of_getLsbD_eq fun j _ => ?_
  simp only [getLsbD_field, BitVec.getLsbD_or, Bool.and_or_distrib_left]

/-- An operand is read back from its own field. -/
theorem field_place_self {n lo : Nat} (v : BitVec n) (h : lo + n ≤ 32) : field (place v lo) lo n = v := by
  refine BitVec.eq_of_getLsbD_eq fun j hj => ?_
  have h32 : lo + j < 32 := by omega
  rw [getLsbD_field, getLsbD_place, Nat.add_sub_cancel_left]
  simp [hj, h32]

/-- An operand leaves every field apart from its own zero. -/
theorem field_place_of_disjoint {n lo' : Nat} (v : BitVec n) {lo len : Nat} (h : lo + len ≤ lo' ∨ lo' + n ≤ lo) :
    field (place v lo') lo len = 0#len := by
  refine BitVec.eq_of_getLsbD_eq fun j hj => ?_
  rw [getLsbD_field, getLsbD_place, BitVec.getLsbD_zero]
  rcases h with h | h
  · simp [show lo + j < lo' by omega]
  · rw [BitVec.getLsbD_of_ge v _ (by omega)]
    simp

theorem checkForm_of_fields {w : Word} {lo len : Nat} {i : Instr} (hz : field w lo len = 0#len)
    (hwf : i.wellFormed = true) : checkForm w lo len true i = .ok i := by
  simp [checkForm, zeroField, hz, hwf]

theorem decode_encode_snew {p : BitVec 3} (hwf : (Instr.snew p).wellFormed = true) :
    decode (encode (.snew p)) = .ok (.snew p) := by
  have hp : field (encode (.snew p)) 0 3 = p := (field_encode _ (by decide)).trans (field_place_self p (by decide))
  have hz : field (encode (.snew p)) 3 23 = 0#23 :=
    (field_encode _ (by decide)).trans (field_place_of_disjoint p (by decide))
  have hop : (opcodeField (encode (.snew p))).toNat = 0x20 := congrArg BitVec.toNat (Opcode.snew p)
  simp only [decode, hop, hp]
  exact checkForm_of_fields hz hwf

theorem decode_encode_squeeze (n : BitVec 16) : decode (encode (.squeeze n)) = .ok (.squeeze n) := by
  have hn : field (encode (.squeeze n)) 0 16 = n := (field_encode _ (by decide)).trans (field_place_self n (by decide))
  have hz : field (encode (.squeeze n)) 16 10 = 0#10 :=
    (field_encode _ (by decide)).trans (field_place_of_disjoint n (by decide))
  have hop : (opcodeField (encode (.squeeze n))).toNat = 0x23 := congrArg BitVec.toNat (Opcode.squeeze n)
  simp only [decode, hop, hn]
  exact checkForm_of_fields hz rfl

theorem decode_encode_digest : decode (encode .digest) = .ok .digest := by decide

theorem decode_encode_absorb {cnt : BitVec 2} {d0 d1 d2 : Byte} (hwf : WellFormed.dataFits cnt d0 d1 d2 = true) :
    decode (encode (.absorb cnt d0 d1 d2)) = .ok (.absorb cnt d0 d1 d2) := by
  have hfields (lo len : Nat) (h : lo + len ≤ 26) : field (encode (.absorb cnt d0 d1 d2)) lo len =
      field (place cnt 24) lo len ||| field (place d2 16) lo len ||| field (place d1 8) lo len |||
        field (place d0 0) lo len := by
    rw [field_encode _ h, Instr.operandBits, field_or, field_or, field_or]
  have hcnt : field (encode (.absorb cnt d0 d1 d2)) 24 2 = cnt := by
    simp [hfields, field_place_self, field_place_of_disjoint]
  have h0 : field (encode (.absorb cnt d0 d1 d2)) 0 8 = d0 := by
    simp [hfields, field_place_self, field_place_of_disjoint]
  have h1 : field (encode (.absorb cnt d0 d1 d2)) 8 8 = d1 := by
    simp [hfields, field_place_self, field_place_of_disjoint]
  have h2 : field (encode (.absorb cnt d0 d1 d2)) 16 8 = d2 := by
    simp [hfields, field_place_self, field_place_of_disjoint]
  have hop : (opcodeField (encode (.absorb cnt d0 d1 d2))).toNat = 0x22 := congrArg BitVec.toNat (Opcode.absorb cnt d0 d1 d2)
  simp only [decode, hop, hcnt, h0, h1, h2]
  exact checkForm_of_fields (Subsingleton.elim _ _) hwf

end Sys2Proof.Laws
end

section
/-! PROOFS. HASH and XOF (30_encoding.md R71, 42_sponge.md R135): what each command of the sequence does as a step, the
ABSORB commands by induction over the chunks, and the output by the last command. -/

namespace Sys2Proof.Machine

open Sys2Proof.Laws

/-! ### Running issued commands -/

/-- The word the host issues for a command. -/
def issued (i : Instr) : HostInput := .command (encode i)

theorem run_succ_of_step (M : Host.Core) {s t : M.State} (n : Nat) (h : M.step s = .next t) :
    M.run (n + 1) s = M.run n t := by
  rw [Host.Core.run, h]

/-- A run of issued commands: the first is decoded and executed, then the run goes on. -/
theorem run_issued {s t : State} {i : Instr} {rest : List HostInput} (n : Nat) (hin : s.inputs = issued i :: rest)
    (hd : decode (encode i) = .ok i) (hx : exec i (s.takeInput rest) = .next t) : core.run (n + 1) s = core.run n t := by
  have hstep : step s = .next t := by simp only [step, hin, issued, hd, hx]
  exact run_succ_of_step core n hstep

/-! ### ABSORBS -/

/-- One ABSORB for up to three bytes, in the assembler's form, appends them (R70, R126). -/
theorem asmAbsorb_cases : ∀ {c : List Byte}, c.length ≤ 3 → ∃ cnt d0 d1 d2, asmAbsorb c = .absorb cnt d0 d1 d2 ∧
    WellFormed.dataFits cnt d0 d1 d2 = true ∧ absorbBytes cnt d0 d1 d2 = c ∧ cnt.toNat = c.length
  | [], _ => ⟨_, _, _, _, rfl, rfl, rfl, rfl⟩
  | [_], _ => ⟨_, _, _, _, rfl, rfl, rfl, rfl⟩
  | [_, _], _ => ⟨_, _, _, _, rfl, rfl, rfl, rfl⟩
  | [_, _, _], _ => ⟨_, _, _, _, rfl, rfl, rfl, rfl⟩
  | _ :: _ :: _ :: _ :: _, h => by
    simp only [List.length_cons] at h
    omega

/-- ABSORBS is one ABSORB for each of some chunks of at most three bytes, which make up the message (R71). -/
theorem absorbChunks_eq_map : ∀ bytes : List Byte, ∃ chunks : List (List Byte),
    absorbChunks bytes = chunks.map asmAbsorb ∧ chunks.flatten = bytes ∧ ∀ c ∈ chunks, c.length ≤ 3
  | [] => ⟨[], by simp [absorbChunks]⟩
  | [a] => ⟨[[a]], by simp [absorbChunks]⟩
  | [a, b] => ⟨[[a, b]], by simp [absorbChunks]⟩
  | a :: b :: c :: rest => by
    obtain ⟨chunks, hmap, hflat, hlen⟩ := absorbChunks_eq_map rest
    exact ⟨[a, b, c] :: chunks, by simp [absorbChunks, hmap], by simp [hflat], by simpa using hlen⟩

theorem pseudoAbsorbs_eq_map (bytes : List Byte) : ∃ chunks : List (List Byte),
    pseudoAbsorbs bytes = chunks.map asmAbsorb ∧ chunks.flatten = bytes ∧ ∀ c ∈ chunks, c.length ≤ 3 := by
  cases bytes with
  | nil => exact ⟨[[]], rfl, rfl, by simp⟩
  | cons a rest => exact absorbChunks_eq_map (a :: rest)

/-- The response OK with no value and no bytes. -/
def plainOk : Response := ⟨0#4, 0#32, []⟩

/-- The state after the bytes of some ABSORB commands, the inputs `rest` still to come. -/
def State.absorbed (s : State) (rest : List HostInput) (bytes : List Byte) (count : Nat) : State :=
  { s with inputs := rest, msg := s.msg ++ bytes, responses := s.responses ++ List.replicate count plainOk }

theorem State.absorbed_absorbed (s : State) (rest rest' : List HostInput) (bytes bytes' : List Byte) (count count' : Nat) :
    (s.absorbed rest bytes count).absorbed rest' bytes' count' = s.absorbed rest' (bytes ++ bytes') (count + count') := by
  simp [State.absorbed]

/-- One ABSORB as a command of a run: its chunk is appended if it fits. -/
theorem exec_asmAbsorb {s : State} (rest : List HostInput) {c : List Byte} (hc : c.length ≤ 3) (hm : s.mode = .sponge)
    (hp : s.phase = .absorbing) (hcap : ∀ cap, s.cfg.msgCap = some cap → s.msg.length + c.length ≤ cap) :
    decode (encode (asmAbsorb c)) = .ok (asmAbsorb c) ∧
      exec (asmAbsorb c) (s.takeInput rest) = .next (s.absorbed rest c 1) := by
  obtain ⟨cnt, d0, d1, d2, hasm, hwf, hbytes, hcnt⟩ := asmAbsorb_cases hc
  have hfits : fitsCap s.cfg (s.msg.length + cnt.toNat) = true := (fitsCap_iff _ _).mpr (hcnt ▸ hcap)
  rw [hasm]
  refine ⟨decode_encode_absorb hwf, (exec_absorb_of_fitsCap (s := s.takeInput rest) hwf hm hp hfits).trans ?_⟩
  rw [hbytes]
  rfl

/-- The ABSORB commands of a message that fits append it, one response OK each. -/
theorem run_absorbs (n : Nat) (rest : List HostInput) (chunks : List (List Byte)) {s : State} (hm : s.mode = .sponge)
    (hp : s.phase = .absorbing) (hlen : ∀ c ∈ chunks, c.length ≤ 3)
    (hcap : ∀ cap, s.cfg.msgCap = some cap → s.msg.length + chunks.flatten.length ≤ cap)
    (hin : s.inputs = (chunks.map asmAbsorb).map issued ++ rest) :
    core.run (chunks.length + n) s = core.run n (s.absorbed rest chunks.flatten chunks.length) := by
  induction chunks generalizing s with
  | nil =>
    have hs : s.absorbed rest [] 0 = s := by
      simp only [List.map_nil, List.nil_append] at hin
      simp [State.absorbed, ← hin]
    rw [List.flatten_nil, List.length_nil, hs, Nat.zero_add]
  | cons c chunks ih =>
    obtain ⟨hc, hchunks⟩ := List.forall_mem_cons.mp hlen
    rw [List.flatten_cons, List.length_append] at hcap
    obtain ⟨hd, hx⟩ := exec_asmAbsorb ((chunks.map asmAbsorb).map issued ++ rest) hc hm hp fun cap h => by
      have := hcap cap h
      omega
    have hcap' : ∀ cap, s.cfg.msgCap = some cap → (s.msg ++ c).length + chunks.flatten.length ≤ cap := fun cap h => by
      rw [List.length_append, Nat.add_assoc]
      exact hcap cap h
    rw [List.length_cons, Nat.add_right_comm, List.flatten_cons, Nat.add_comm chunks.length 1, ← State.absorbed_absorbed]
    exact (run_issued _ hin hd hx).trans (ih (s := s.absorbed _ c 1) hm hp hchunks hcap' rfl)

/-! ### The output -/

/-- A squeeze right after absorbing returns the sponge function of the message (R135). -/
theorem squeezeEffect_absorbing (d : Nat) {u : State} (hp : u.phase = .absorbing) (hA : u.A = 0#1600) :
    ∃ t, squeezeEffect d u = .next t ∧ t.inputs = u.inputs ∧
      t.responses = u.responses ++ [⟨0#4, 0#32, spongeFunction u.rate.toNat u.sfxLen u.sfx u.msg d⟩] := by
  have hout : (squeezeLoop u.finalize.rate.toNat d ⟨u.finalize.A, u.finalize.sqOff⟩).1 =
      spongeFunction u.rate.toNat u.sfxLen u.sfx u.msg d := by
    rw [State.finalize_A, State.finalize_sqOff, State.finalize_rate, finalArray, hA, spongeFunction]
  rw [squeezeEffect_finalize _ hp, squeezeEffect, beginSqueeze_squeezing u.finalize rfl, ← hout]
  exact ⟨_, rfl, rfl, rfl⟩

/-- The profiles of HASH have a fixed output length (R120). -/
theorem outBits_ne_zero_of_lt {p : BitVec 3} {row : ProfileRow} (hp : p.toNat < 4) (h : profileRow p = some row) :
    row.outBits ≠ 0#10 := by
  have htable : ∀ p : BitVec 3, p.toNat < 4 → (profileRow p).map ProfileRow.outBits ≠ some 0#10 := by decide
  simpa [h] using htable p hp

/-- SNEW p, the ABSORB commands of a message, and a last command: the shape of HASH and XOF (R71). -/
def oneShot (p : BitVec 3) (msg : List Byte) (last : Instr) : List Instr := .snew p :: (pseudoAbsorbs msg ++ [last])

theorem oneShot_length (p : BitVec 3) (msg : List Byte) (last : Instr) :
    (oneShot p msg last).length = (pseudoAbsorbs msg).length + 1 + 1 := by
  simp [oneShot]

/-- A new sponge of a profile, its SNEW answered. -/
def State.freshSponge (s : State) (row : ProfileRow) (p : BitVec 3) : State :=
  (s.installSponge row p).succeededWith 0#32 []

section
variable {s : State} {p : BitVec 3} {row : ProfileRow} {msg : List Byte} {last : Instr}
  (hs : s.inputs = []) (hrow : profileRow p = some row) (hcap : ∀ cap, s.cfg.msgCap = some cap → msg.length ≤ cap)
include hs hrow hcap

/-- Issued to any engine, the commands before the last make a sponge with the whole message, whatever the state was. -/
theorem run_oneShot_to_last : core.run (oneShot p msg last).length (s.issue (oneShot p msg last)) =
    core.run 1 ((s.freshSponge row p).absorbed [issued last] msg (pseudoAbsorbs msg).length) := by
  obtain ⟨chunks, hmap, rfl, hlen⟩ := pseudoAbsorbs_eq_map msg
  have hwf : (Instr.snew p).wellFormed = true := by
    refine decide_eq_true (Nat.not_le.mp fun h6 => ?_)
    simp [profileRow_of_ge p h6] at hrow
  have hin : (s.issue (oneShot p chunks.flatten last)).inputs =
      issued (.snew p) :: ((chunks.map asmAbsorb).map issued ++ [issued last]) := by
    simp [State.issue, oneShot, hs, hmap, issued]
  have hcap' : ∀ cap, s.cfg.msgCap = some cap → 0 + chunks.flatten.length ≤ cap := by
    rwa [Nat.zero_add]
  have hsnew := run_issued (chunks.length + 1) hin (decode_encode_snew hwf) (exec_snew_of_row _ hrow)
  have habsorb := run_absorbs 1 [issued last] chunks
    (s := (s.freshSponge row p).takeInput ((chunks.map asmAbsorb).map issued ++ [issued last])) rfl rfl hlen hcap' rfl
  rw [oneShot_length, hmap, List.length_map]
  exact hsnew.trans habsorb

/-- A one-shot sponge whose last command squeezes `d` bytes returns the sponge function of the message (R135). -/
theorem run_oneShot {d : Nat} (hd : decode (encode last) = .ok last)
    (hx : ∀ u : State, u.mode = .sponge → u.phase = .absorbing → u.outBits = row.outBits →
      exec last u = squeezeEffect d u) :
    ∃ t, core.run (oneShot p msg last).length (s.issue (oneShot p msg last)) = .next t ∧ t.inputs = [] ∧
      t.responses = s.responses ++ List.replicate ((oneShot p msg last).length - 1) ⟨0#4, 0#32, []⟩ ++
        [⟨0#4, 0#32, spongeFunction row.rate.toNat row.sfxLen row.sfx msg d⟩] := by
  obtain ⟨t, ht, hinputs, hresp⟩ := squeezeEffect_absorbing d
    (u := (s.freshSponge row p).absorbed [] msg (pseudoAbsorbs msg).length) rfl rfl
  have hlast := run_issued 0 (s := (s.freshSponge row p).absorbed [issued last] msg (pseudoAbsorbs msg).length)
    rfl hd ((hx _ rfl rfl rfl).trans ht)
  refine ⟨t, (run_oneShot_to_last hs hrow hcap).trans hlast, hinputs, hresp.trans ?_⟩
  rw [oneShot_length, Nat.add_sub_cancel, List.replicate_succ]
  simp [State.absorbed, State.freshSponge, State.succeededWith, plainOk]

end

end Sys2Proof.Machine

namespace Sys2Proof.Proofs

open Sys2Proof.Machine Sys2Proof.Laws

/-- Settles O58: after SNEW and the ABSORB commands the machine holds a fresh sponge with the whole message, and the last
command returns its output. -/
theorem hashReturnsSpongeFunction : Obligations.HashReturnsSpongeFunction := by
  refine fun s p row msg len hs hrow hcap => ⟨fun hp => ?_, fun _ => ?_⟩
  · refine run_oneShot hs hrow hcap decode_encode_digest fun u hm hphase hout => ?_
    rw [exec_digest_of_sponge hm (hout ▸ outBits_ne_zero_of_lt hp hrow) (by simp [hphase]), hout]
  · exact run_oneShot hs hrow hcap (decode_encode_squeeze len) fun u hm hphase _ =>
      exec_squeeze_of_sponge hm len (by simp [hphase])

end Sys2Proof.Proofs
end

section
/-! PROOFS. The system commands (43_system.md): RESET, and RDSTAT with the fields of STATUS (10_state.md R29). -/

namespace Sys2Proof.Machine

/-! ### What the two commands do -/

/-- RESET is power-on followed by the response of success (R150). -/
theorem exec_reset (s : State) : exec .reset s = .next (s.powerOn.reply ⟨0#4, 0#32, []⟩) := rfl

/-- RDSTAT returns STATUS and changes nothing else (R151). -/
theorem exec_rdstat (s : State) : exec .rdstat s = .next (s.succeededWith (statusWord s) []) := rfl

/-! ### The fields of STATUS

STATUS is a chain of appends, the most significant field first. A field is reached by dropping the parts below it one by
one, until it is the lowest part left. -/

/-- A field of the high part is a field of the whole, moved up by the width of the low part. -/
theorem extractLsb'_append_of_high {m n start len : Nat} {hi : BitVec m} {lo : BitVec n} {v : BitVec len}
    (h : hi.extractLsb' start len = v) : (hi ++ lo).extractLsb' (start + n) len = v := by
  rw [BitVec.extractLsb'_append_eq_of_le (Nat.le_add_left n start), Nat.add_sub_cancel, h]

section
variable (s : State)

theorem statusWord_mode : (statusWord s).extractLsb' 0 2 = modeCode s.mode :=
  BitVec.extractLsb'_append_eq_right

theorem statusWord_phase : (statusWord s).extractLsb' 2 2 = phaseCode s.phase :=
  extractLsb'_append_of_high BitVec.extractLsb'_append_eq_right

theorem statusWord_errFlags : (statusWord s).extractLsb' 4 6 = s.errFlags :=
  extractLsb'_append_of_high <| extractLsb'_append_of_high BitVec.extractLsb'_append_eq_right

theorem statusWord_L : (statusWord s).extractLsb' 10 3 = s.L :=
  extractLsb'_append_of_high <| extractLsb'_append_of_high <| extractLsb'_append_of_high
    BitVec.extractLsb'_append_eq_right

theorem statusWord_NR : (statusWord s).extractLsb' 13 8 = s.NR :=
  extractLsb'_append_of_high <| extractLsb'_append_of_high <| extractLsb'_append_of_high <|
    extractLsb'_append_of_high BitVec.extractLsb'_append_eq_right

theorem statusWord_profile : (statusWord s).extractLsb' 21 3 = s.profile :=
  extractLsb'_append_of_high <| extractLsb'_append_of_high <| extractLsb'_append_of_high <|
    extractLsb'_append_of_high <| extractLsb'_append_of_high BitVec.extractLsb'_append_eq_right

/-- The reserved bits are the highest part, on top of PROFILE. -/
theorem statusWord_reserved : (statusWord s).extractLsb' 24 8 = 0#8 :=
  extractLsb'_append_of_high <| extractLsb'_append_of_high <| extractLsb'_append_of_high <|
    extractLsb'_append_of_high <| extractLsb'_append_of_high BitVec.extractLsb'_append_eq_left

end

end Sys2Proof.Machine

namespace Sys2Proof.Proofs

open Sys2Proof.Machine Sys2Proof.Laws

/-- Settles O22: RESET is power-on, which leaves the reset values, and the response of success. -/
theorem resetCommand : Obligations.ResetCommand :=
  ⟨encode_reset, fun s => ⟨_, exec_reset s, State.resetValues_reply s.resetValues_powerOn _, rfl⟩⟩

/-- Settles O23: the value returned is STATUS, and its layout holds field by field. -/
theorem rdstatCommand : Obligations.RdstatCommand :=
  ⟨encode_rdstat, fun s => ⟨statusWord s, exec_rdstat s, statusWord_mode s, statusWord_phase s, statusWord_errFlags s,
    statusWord_L s, statusWord_NR s, statusWord_profile s, statusWord_reserved s⟩⟩

end Sys2Proof.Proofs
end

section
/-! PROOFS. Error delivery (60_exceptions.md R163): what a command that raises an error changes, and that the engine is then
ready for the next command. -/

namespace Sys2Proof.Machine

/-- A command never stops the engine: it raises an error or responds, and both leave a next state (R163). -/
theorem exec_completes (i : Instr) (s : State) : ∃ t, exec i s = .next t := by
  by_cases hi : i = .reset
  · subst hi
    exact ⟨_, exec_reset s⟩
  · obtain ⟨e, he⟩ | ⟨val, dout, u, hu, -, -⟩ := exec_raises_or_responds hi s
    · exact ⟨_, he.trans (raise_eq e s)⟩
    · exact ⟨_, hu⟩

/-- A step never stops the engine, in any state (R163, R174). -/
theorem step_completes (s : State) : ∃ t, step s = .next t := by
  obtain ⟨-, h⟩ | ⟨w, rest, i, -, -, h⟩ | ⟨w, rest, e, -, -, h⟩ | ⟨a, rest, -, -, h⟩ := step_cases s
  · exact ⟨_, h⟩
  · rw [h]
    exact exec_completes i _
  · exact ⟨_, h.trans (raise_eq _ _)⟩
  · exact ⟨_, h⟩

end Sys2Proof.Machine

namespace Sys2Proof.Proofs

open Sys2Proof.Machine

/-- Settles O13: of the two ways a command ends, only raising an error returns a code other than 0, and no step stops the
engine. -/
theorem errorsChangeOnlyTheirFlag : Obligations.ErrorsChangeOnlyTheirFlag := by
  intro i s t r ht hr hcode
  obtain ⟨e, -, herr, hfail⟩ | ⟨herr, -⟩ := exec_next_cases ht hr
  · exact ⟨by rw [herr, hfail], step_completes t⟩
  · exact absurd herr hcode

end Sys2Proof.Proofs
end

section
/-! PROOFS. Many rounds by the bit rules (41_permutation.md R92, R104), IOTA and PERMUTE, and the permutation commands
that come to the same: ROUND as five commands, PERMUTE as NR rounds. -/

namespace Sys2Proof.Machine

/-! ### Rounds -/

theorem isArray_rounds {w : Nat} (l n : Nat) (ir : Int) {A : Bits} {f : Nat → Nat → Nat → Bool} (h : IsArray w A f) :
    IsArray w (rounds w l n ir A) (roundsRule w l n ir f) := by
  induction n generalizing ir A f with
  | zero => exact h
  | succ n ih => exact ih (ir + 1) (isArray_rnd h l ir)

theorem isArray_keccakP {w : Nat} (l nr : Nat) {A : Bits} {f : Nat → Nat → Nat → Bool} (h : IsArray w A f) :
    IsArray w (keccakP w l nr A) (roundsRule w l nr (firstRound l nr) f) :=
  isArray_rounds l nr (firstRound l nr) h

/-- One round more is a round after the others, with the next index (R104). -/
theorem rounds_succ (w l n : Nat) (ir : Int) (A : Bits) :
    rounds w l (n + 1) ir A = rnd w l (ir + n) (rounds w l n ir A) := by
  induction n generalizing ir A with
  | zero => simp [rounds]
  | succ n ih =>
    rw [rounds, ih, rounds, Int.natCast_succ, Int.add_assoc, Int.add_comm 1]

/-! ### The round constant by its index and its width (R92) -/

theorem rc_congr {t t' : Int} (h : t % 255 = t' % 255) : rc t = rc t' := by rw [rc, rc, h]

theorem roundConstant_congr (w l : Nat) {ir ir' : Int} (h : ir % 255 = ir' % 255) :
    roundConstant w l ir = roundConstant w l ir' := by
  have hrc (j : Nat) : rc ((j : Int) + 7 * ir) = rc ((j : Int) + 7 * ir') := rc_congr (by omega)
  simp only [roundConstant, hrc]

theorem rnd_congr (w l : Nat) {ir ir' : Int} (h : ir % 255 = ir' % 255) (A : Bits) : rnd w l ir A = rnd w l ir' A := by
  rw [rnd, rnd, iota, iota, roundConstant_congr w l h]

/-- Below bit `2^l` only the positions `2^j - 1` with `j ≤ l` stand, so a longer constant has the same bits there. -/
theorem roundConstantRule_of_le {l l' z : Nat} (ir : Int) (hl : l ≤ l') (hz : z < 2 ^ l) :
    roundConstantRule l' ir z = roundConstantRule l ir z := by
  rw [Bool.eq_iff_iff, roundConstantRule, roundConstantRule, List.any_eq_true, List.any_eq_true]
  refine exists_congr fun j => and_congr_left fun hj => ?_
  simp only [Bool.and_eq_true, beq_iff_eq] at hj
  obtain ⟨rfl, -⟩ := hj
  have hpos : 0 < 2 ^ j := Nat.two_pow_pos j
  have hjl : j ≤ l := (Nat.pow_le_pow_iff_right (a := 2) (by decide)).mp (by omega)
  simp only [List.mem_range]
  omega

/-! ### Permutation commands one after the other -/

/-- A permutation command in Perm mode, as a next state. -/
theorem exec_permuted_perm {i : Instr} {s : State} {A : Bits} (hi : permuted s i = some A) (hm : s.mode = .perm) :
    exec i s = .next ((s.withArray A).succeededWith 0#32 []) :=
  (exec_permuted hi).1 hm

/-- The state after `k` ROUND commands with the indices of PERMUTE: `k` rounds and `k` responses. -/
def State.afterRounds (s : State) (k : Nat) : State :=
  { s.withArray (rounds s.W.toNat s.L.toNat k (firstRound s.L.toNat s.NR.toNat) s.A) with
    responses := s.responses ++ List.replicate k (okResponse 0#32 []) }

/-- The index operand of the ROUND command in place of round `k` of PERMUTE: reduced modulo 255, in eight bits (R113). -/
theorem toNat_reducedIndex (t : Int) : ((BitVec.ofNat 8 (t % 255).toNat).toNat : Int) % 255 = t % 255 := by
  rw [BitVec.toNat_ofNat]
  omega

theorem exec_round_afterRounds {s : State} (hm : s.mode = .perm) (k : Nat) :
    exec (.round (BitVec.ofNat 8 ((firstRound s.L.toNat s.NR.toNat + k) % 255).toNat)) (s.afterRounds k) =
      .next (s.afterRounds (k + 1)) := by
  refine (exec_permuted_perm (s := s.afterRounds k) rfl hm).trans (congrArg _ ?_)
  simp only [State.afterRounds, State.succeededWith, State.withArray, rounds_succ, okResponse,
    List.replicate_succ', List.append_assoc, rnd_congr _ _ (toNat_reducedIndex _)]

end Sys2Proof.Machine

namespace Sys2Proof.Proofs

open Sys2Proof.Machine Sys2Proof.Laws

/-- Settles O33: XORing the constant into lane (0, 0) has the bits of R99. -/
theorem iotaCommand : Obligations.IotaCommand :=
  ⟨encode_iota, fun s ir hinv => exec_permuted_of_rule rfl hinv fun h => isArray_iota h s.L.toNat ir.toNat⟩

/-- Settles O35, by induction on the number of rounds, each round refining its bit rule. -/
theorem permuteRefinesBitRules : Obligations.PermuteRefinesBitRules :=
  ⟨encode_permute, fun s hinv => exec_permuted_of_rule rfl hinv (isArray_keccakP s.L.toNat s.NR.toNat)⟩

/-- Settles O38: over one period the printed table is the register's sequence, and both reduce `t` modulo 255. -/
theorem rcTableIsShiftRegister : Obligations.RcTableIsShiftRegister := rc_eq_rcByLfsr

/-- Settles O39: the table of rc is read modulo 255, and a constant of width `2^l` has the positions below `2^l` only. -/
theorem roundConstantPeriodAndTruncation : Obligations.RoundConstantPeriodAndTruncation := by
  refine ⟨fun w l ir ir' h => roundConstant_congr w l h, fun l ir hl => BitVec.eq_of_getLsbD_eq fun z hz => ?_⟩
  have hpow : 2 ^ l ≤ 2 ^ 6 := Nat.pow_le_pow_right (by decide) hl
  rw [getLsbD_roundConstant l ir hz, BitVec.getLsbD_setWidth, getLsbD_roundConstant 6 ir (by omega),
    roundConstantRule_of_le ir hl hz, decide_eq_true hz, Bool.true_and]

/-- Settles O36: the round is defined as the five sub-steps, and each command leaves mode, W and L for the next. -/
theorem roundIsFiveCommands : Obligations.RoundIsFiveCommands := by
  intro s ir hm
  exact ⟨_, _, _, _, _, _, exec_permuted_perm rfl hm, exec_permuted_perm rfl hm, exec_permuted_perm rfl hm,
    exec_permuted_perm rfl hm, exec_permuted_perm rfl hm, exec_permuted_perm rfl hm, rfl, rfl⟩

/-- Settles O37: the states after k ROUND commands hold k rounds of PERMUTE, since an index counts modulo 255 only. -/
theorem permuteIsRoundCommands : Obligations.PermuteIsRoundCommands := by
  refine fun s hm => ⟨s.afterRounds, ?_, fun k _ => exec_round_afterRounds hm k, ?_⟩
  · simp [State.afterRounds, State.withArray, rounds]
  · exact ⟨_, exec_permuted_perm rfl hm, rfl, rfl⟩

end Sys2Proof.Proofs
end

section
/-! PROOFS. The engine's invariant (10_state.md R15, R17, R19 to R23, R26 to R28): each operation on the state keeps it, so
each command and each step does. -/

namespace Sys2Proof.Machine

/-! ### The invariant in one mode -/

theorem State.inv_idle_iff {s : State} (hm : s.mode = .idle) : s.Inv ↔ IdleShape s := by simp [State.Inv, hm]
theorem State.inv_perm_iff {s : State} (hm : s.mode = .perm) : s.Inv ↔ PermShape s := by simp [State.Inv, hm]
theorem State.inv_sponge_iff {s : State} (hm : s.mode = .sponge) : s.Inv ↔ SpongeShape s := by simp [State.Inv, hm]

/-! ### Reset and construction -/

theorem State.inv_powerOn (s : State) : s.powerOn.Inv :=
  (State.inv_idle_iff rfl).mpr ⟨rfl, rfl, rfl, rfl, rfl, rfl, rfl, rfl, rfl, rfl, rfl, rfl, rfl⟩

theorem State.inv_installPerm (s : State) {b : BitVec 11} (nr : BitVec 8) (hb : CandidateWidth b.toNat) :
    (s.installPerm b nr).Inv := by
  obtain ⟨hW, hL, -⟩ := widthRegisters_of_candidate hb
  have hfits : ArrayFits b.toNat 0#1600 := (fits_iff _ _).mpr fun _ _ => BitVec.getLsbD_zero
  exact (State.inv_perm_iff rfl).mpr ⟨hb, hW, hL, hfits, rfl, rfl, rfl, rfl, rfl, rfl, rfl, rfl⟩

theorem State.inv_installSponge (s : State) {row : ProfileRow} {p : BitVec 3} (hrate : validRate row.rate = true)
    (hsfx : WellFormed.suffixFits row.sfxLen row.sfx = true)
    (hp : (p = 7#3 ∧ row.outBits = 0#10) ∨ profileRow p = some row) : (s.installSponge row p).Inv :=
  (State.inv_sponge_iff rfl).mpr ⟨rfl, rfl, rfl, rfl, hrate, hsfx, hp, Memory.wf_nil _, nofun, fun _ => ⟨rfl, rfl⟩, nofun⟩

/-- Every row of the profile table has a legal rate and a suffix within its length (R120). -/
theorem profileRow_valid {p : BitVec 3} {row : ProfileRow} (h : profileRow p = some row) :
    validRate row.rate = true ∧ WellFormed.suffixFits row.sfxLen row.sfx = true := by
  have htable : ∀ p : BitVec 3, ∀ row ∈ profileRow p,
      validRate row.rate = true ∧ WellFormed.suffixFits row.sfxLen row.sfx = true := by decide
  exact htable p row h

/-! ### The array in Perm mode -/

section
variable {s : State} (hinv : s.Inv) (hm : s.mode = .perm)
include hinv hm

/-- In Perm mode any array of the same width may take the place of the old one. -/
theorem State.inv_withArray {A : Bits} (hA : ArrayFits s.B.toNat A) : (s.withArray A).Inv := by
  obtain ⟨hB, hW, hL, -, hrest⟩ := (State.inv_perm_iff hm).mp hinv
  exact (State.inv_perm_iff (s := s.withArray A) hm).mpr ⟨hB, hW, hL, hA, hrest⟩

theorem State.inv_writeBit {x y : BitVec 3} {z : BitVec 7} (hr : CoordinatesInRange s x y z) (v : Bool) :
    (s.writeBit x.toNat y.toNat z.toNat v).Inv := by
  obtain ⟨-, hW, -, hA, -⟩ := (State.inv_perm_iff hm).mp hinv
  obtain ⟨hx, hy, hz⟩ := hr
  have hlt := linearIndex_lt hx hy hz
  refine State.inv_withArray hinv hm ((fits_iff _ _).mpr fun i hi => ?_)
  rw [getLsbD_setBit s.A _ i v (linearIndex_lt_storage hm hinv ⟨hx, hy, hz⟩), if_neg (by omega)]
  exact (fits_iff s.A _).mp hA i hi

/-- The seven permutation commands leave no bit at or above the width. -/
theorem permuted_fits {i : Instr} {A : Bits} (hi : permuted s i = some A) : ArrayFits s.B.toNat A := by
  obtain ⟨hB, h⟩ := State.isArray_of_perm hinv hm
  rw [← hB]
  cases i <;> simp only [permuted, Option.some.injEq, reduceCtorEq] at hi <;> subst hi
  case theta => exact (isArray_theta h).fits
  case rho => exact (isArray_rho h).fits
  case pi => exact (isArray_pi h).fits
  case chi => exact (isArray_chi h).fits
  case iota ir => exact (isArray_iota h s.L.toNat ir.toNat).fits
  case round ir => exact (isArray_rnd h s.L.toNat ir.toNat).fits
  case permute => exact (isArray_keccakP s.L.toNat s.NR.toNat h).fits

end

/-! ### The sponge -/

/-- SQOFF never passes the end of a block (R27). -/
theorem streamPos_off_le {r8 : Nat} (hpos : 0 < r8) (A : Bits) (t : Nat) : (streamPos r8 A t).off.toNat ≤ r8 := by
  cases t with
  | zero => exact Nat.zero_le r8
  | succ t => exact (Nat.mod_le _ _).trans (Nat.mod_lt t hpos)

section
variable {s : State} (hinv : s.Inv) (hm : s.mode = .sponge)
include hinv hm

/-- A message that still fits may replace the old one while absorbing. -/
theorem State.inv_append (hp : s.phase = .absorbing) {v : List Byte} (h : fitsCap s.cfg (s.msg.length + v.length) = true) :
    (s.append v).Inv := by
  obtain ⟨hB, hW, hL, hNR, hrate, hsfx, hprofile, -, hphase, habs, -⟩ := (State.inv_sponge_iff hm).mp hinv
  refine (State.inv_sponge_iff (s := s.append v) hm).mpr
    ⟨hB, hW, hL, hNR, hrate, hsfx, hprofile, Memory.wf_append h, hphase, habs, fun hsq => ?_⟩
  rw [State.append_phase, hp] at hsq
  cases hsq

theorem State.inv_finalize : s.finalize.Inv := by
  obtain ⟨hB, hW, hL, hNR, hrate, hsfx, hprofile, -⟩ := (State.inv_sponge_iff hm).mp hinv
  exact (State.inv_sponge_iff (s := s.finalize) hm).mpr
    ⟨hB, hW, hL, hNR, hrate, hsfx, hprofile, Memory.wf_nil _, nofun, nofun, fun _ => ⟨rfl, Nat.zero_le _⟩⟩

/-- In the Squeezing phase the array is free, and SQOFF is within the block. -/
theorem State.inv_withPos (hp : s.phase = .squeezing) {q : SqueezePos} (hq : q.off.toNat ≤ s.rate.toNat / 8) :
    (s.withPos q).Inv := by
  obtain ⟨hB, hW, hL, hNR, hrate, hsfx, hprofile, hmem, hphase, -, hsq⟩ := (State.inv_sponge_iff hm).mp hinv
  obtain ⟨hmsg, -⟩ := hsq hp
  refine (State.inv_sponge_iff (s := s.withPos q) hm).mpr
    ⟨hB, hW, hL, hNR, hrate, hsfx, hprofile, hmem, hphase, fun habs => ?_, fun _ => ⟨hmsg, hq⟩⟩
  rw [State.withPos_phase, hp] at habs
  cases habs

theorem squeezeEffect_inv_of_squeezing (hp : s.phase = .squeezing) (n : Nat) :
    ∃ t, squeezeEffect n s = .next t ∧ t.Inv := by
  obtain ⟨hr0, hr1, hr8⟩ := State.rate_of_sponge hinv hm
  obtain ⟨-, -, hsq⟩ := State.phaseShape_of_sponge hinv hm
  obtain ⟨-, hoff⟩ := hsq hp
  have hpos : 0 < s.rate.toNat / 8 := by omega
  exact ⟨_, squeezeEffect_squeezing n hp hpos (by omega) hoff,
    State.inv_withPos hinv hm hp (streamPos_off_le hpos s.A (s.sqOff.toNat + n))⟩

theorem squeezeEffect_inv (hp : s.phase ≠ .none) (n : Nat) : ∃ t, squeezeEffect n s = .next t ∧ t.Inv := by
  cases h : s.phase with
  | none => exact absurd h hp
  | absorbing =>
    rw [squeezeEffect_finalize n h]
    exact squeezeEffect_inv_of_squeezing (s := s.finalize) (State.inv_finalize hinv hm) hm rfl n
  | squeezing => exact squeezeEffect_inv_of_squeezing hinv hm h n

end

/-! ### Commands and steps -/

/-- Every command keeps the invariant. Flags, inputs and responses are no part of it, so an error and a response keep it. -/
theorem exec_inv {i : Instr} {s t : State} (hinv : s.Inv) (ht : exec i s = .next t) : t.Inv := by
  obtain ⟨e, h⟩ | ⟨-, h⟩ | ⟨val, -, h⟩ | ⟨b, nr, hb, -, h⟩ | ⟨x, y, z, v, -, hm, hx, hy, hz, h⟩ | ⟨A, hA, hm, h⟩ |
    ⟨p, row, -, hrow, h⟩ | ⟨rate, sfxlen, sfx, -, hrate, hsfx, h⟩ | ⟨cnt, d0, d1, d2, -, hm, hp, hcap, h⟩ |
    ⟨n, -, hm, hp, h⟩ := exec_cases i s
  on_goal 10 =>
    obtain ⟨u, hu, huinv⟩ := squeezeEffect_inv hinv hm hp n
    rw [h, hu] at ht
    cases ht
    exact huinv
  all_goals
    rw [h] at ht
    cases ht
  · exact hinv
  · exact s.inv_powerOn
  · exact hinv
  · exact s.inv_installPerm nr hb
  · exact State.inv_writeBit hinv hm ⟨hx, hy, hz⟩ v
  · exact State.inv_withArray hinv hm (permuted_fits hinv hm hA)
  · obtain ⟨hrate, hsfx⟩ := profileRow_valid hrow
    exact s.inv_installSponge hrate hsfx (.inr hrow)
  · exact s.inv_installSponge (row := ⟨rate, sfxlen, sfx, 0#10⟩) hrate hsfx (.inl ⟨rfl, rfl⟩)
  · exact State.inv_append hinv hm hp (by rwa [absorbBytes_length])

end Sys2Proof.Machine

namespace Sys2Proof.Proofs

open Sys2Proof.Machine

/-- Settles O7: a step waits, runs a command, raises an error or resets, and each of these keeps the invariant. -/
theorem stepKeepsInvariant : Obligations.StepKeepsInvariant := by
  intro s t hinv ht
  obtain ⟨-, h⟩ | ⟨w, rest, i, -, -, h⟩ | ⟨w, rest, e, -, -, h⟩ | ⟨a, rest, -, -, h⟩ := step_cases s <;> rw [h] at ht
  · cases ht
    exact hinv
  · exact exec_inv (s := s.takeInput rest) hinv ht
  · cases ht
    exact hinv
  · cases ht
    exact State.inv_powerOn _

/-- Settles O6: the reset state is a state after power-on. -/
theorem resetMeetsInvariant : Obligations.ResetMeetsInvariant := State.inv_powerOn State.reset

end Sys2Proof.Proofs
end

section
/-! PROOFS. Decoding and encoding undo each other (30_encoding.md R60 to R67): the fields of a command's word are its
operands, and a word is made up of its fields. -/

namespace Sys2Proof.Laws

open Sys2Proof.Machine

/-! ### Decoding the word of a command -/

/-- The fields of a word whose only operand stands at bit 0: the operand, and zeros above it. -/
theorem field_encode_low {i : Instr} {n : Nat} {v : BitVec n} (hi : i.operandBits = place v 0) (hn : n ≤ 26) :
    field (encode i) 0 n = v ∧ ∀ lo len, n ≤ lo → lo + len ≤ 26 → field (encode i) lo len = 0#len := by
  refine ⟨?_, fun lo len hlo hlen => ?_⟩
  · rw [field_encode i (by omega), hi, field_place_self v (by omega)]
  · rw [field_encode i hlen, hi, field_place_of_disjoint v (by omega)]

/-- A field of one bit is that bit. -/
theorem field_one (w : Word) (lo : Nat) : field w lo 1 = BitVec.ofBool (w.getLsbD lo) := by
  refine BitVec.eq_of_getLsbD_eq fun j hj => ?_
  obtain rfl : j = 0 := by omega
  rw [getLsbD_field]
  simp

theorem decode_encode_fnew (b : BitVec 11) : decode (encode (.fnew b)) = .ok (.fnew b) := by
  obtain ⟨hb, hz⟩ := field_encode_low (i := .fnew b) (v := b) rfl (by decide)
  have hop : (opcodeField (encode (.fnew b))).toNat = 0x08 := congrArg BitVec.toNat (Opcode.fnew b)
  have hnr : zeroField (encode (.fnew b)) 11 8 = true := beq_iff_eq.mpr (hz 11 8 (by decide) (by decide))
  simp only [decode, hop, hb, hnr]
  exact checkForm_of_fields (hz 19 7 (by decide) (by decide)) rfl

theorem decode_encode_iota (ir : BitVec 8) : decode (encode (.iota ir)) = .ok (.iota ir) := by
  obtain ⟨hir, hz⟩ := field_encode_low (i := .iota ir) (v := ir) rfl (by decide)
  have hop : (opcodeField (encode (.iota ir))).toNat = 0x14 := congrArg BitVec.toNat (Opcode.iota ir)
  simp only [decode, hop, hir]
  exact checkForm_of_fields (hz 8 18 (by decide) (by decide)) rfl

theorem decode_encode_round (ir : BitVec 8) : decode (encode (.round ir)) = .ok (.round ir) := by
  obtain ⟨hir, hz⟩ := field_encode_low (i := .round ir) (v := ir) rfl (by decide)
  have hop : (opcodeField (encode (.round ir))).toNat = 0x15 := congrArg BitVec.toNat (Opcode.round ir)
  simp only [decode, hop, hir]
  exact checkForm_of_fields (hz 8 18 (by decide) (by decide)) rfl

theorem decode_encode_pnew (b : BitVec 11) (nr : BitVec 8) : decode (encode (.pnew b nr)) = .ok (.pnew b nr) := by
  have hfields (lo len : Nat) (h : lo + len ≤ 26) :
      field (encode (.pnew b nr)) lo len = field (place nr 11) lo len ||| field (place b 0) lo len := by
    rw [field_encode _ h, Instr.operandBits, field_or]
  have hb : field (encode (.pnew b nr)) 0 11 = b := by simp [hfields, field_place_self, field_place_of_disjoint]
  have hnr : field (encode (.pnew b nr)) 11 8 = nr := by simp [hfields, field_place_self, field_place_of_disjoint]
  have hz : field (encode (.pnew b nr)) 19 7 = 0#7 := by simp [hfields, field_place_of_disjoint]
  have hop : (opcodeField (encode (.pnew b nr))).toNat = 0x09 := congrArg BitVec.toNat (Opcode.pnew b nr)
  simp only [decode, hop, hb, hnr]
  exact checkForm_of_fields hz rfl

theorem decode_encode_bget (x y : BitVec 3) (z : BitVec 7) : decode (encode (.bget x y z)) = .ok (.bget x y z) := by
  have hfields (lo len : Nat) (h : lo + len ≤ 26) : field (encode (.bget x y z)) lo len =
      field (place x 10) lo len ||| field (place y 7) lo len ||| field (place z 0) lo len := by
    rw [field_encode _ h, Instr.operandBits, field_or, field_or]
  have hx : field (encode (.bget x y z)) 10 3 = x := by simp [hfields, field_place_self, field_place_of_disjoint]
  have hy : field (encode (.bget x y z)) 7 3 = y := by simp [hfields, field_place_self, field_place_of_disjoint]
  have hz : field (encode (.bget x y z)) 0 7 = z := by simp [hfields, field_place_self, field_place_of_disjoint]
  have hv : zeroField (encode (.bget x y z)) 13 1 = true := by simp [zeroField, hfields, field_place_of_disjoint]
  have hzero : field (encode (.bget x y z)) 14 12 = 0#12 := by simp [hfields, field_place_of_disjoint]
  have hop : (opcodeField (encode (.bget x y z))).toNat = 0x0A := congrArg BitVec.toNat (Opcode.bget x y z)
  simp only [decode, hop, hx, hy, hz, hv]
  exact checkForm_of_fields hzero rfl

theorem decode_encode_bset (x y : BitVec 3) (z : BitVec 7) (v : Bool) :
    decode (encode (.bset x y z v)) = .ok (.bset x y z v) := by
  have hfields (lo len : Nat) (h : lo + len ≤ 26) : field (encode (.bset x y z v)) lo len =
      field (place (BitVec.ofBool v) 13) lo len ||| field (place x 10) lo len ||| field (place y 7) lo len |||
        field (place z 0) lo len := by
    rw [field_encode _ h, Instr.operandBits, field_or, field_or, field_or]
  have hx : field (encode (.bset x y z v)) 10 3 = x := by simp [hfields, field_place_self, field_place_of_disjoint]
  have hy : field (encode (.bset x y z v)) 7 3 = y := by simp [hfields, field_place_self, field_place_of_disjoint]
  have hz : field (encode (.bset x y z v)) 0 7 = z := by simp [hfields, field_place_self, field_place_of_disjoint]
  have hbit : field (encode (.bset x y z v)) 13 1 = BitVec.ofBool v := by
    simp [hfields, field_place_self, field_place_of_disjoint]
  have hv : (encode (.bset x y z v)).getLsbD 13 = v := by
    rwa [field_one, BitVec.ofBool_eq_iff_eq] at hbit
  have hzero : field (encode (.bset x y z v)) 14 12 = 0#12 := by simp [hfields, field_place_of_disjoint]
  have hop : (opcodeField (encode (.bset x y z v))).toNat = 0x0B := congrArg BitVec.toNat (Opcode.bset x y z v)
  simp only [decode, hop, hx, hy, hz, hv]
  exact checkForm_of_fields hzero rfl

theorem decode_encode_snewc {rate : BitVec 11} {sfxlen : BitVec 3} {sfx : BitVec 7}
    (hwf : WellFormed.suffixFits sfxlen sfx = true) :
    decode (encode (.snewc rate sfxlen sfx)) = .ok (.snewc rate sfxlen sfx) := by
  have hfields (lo len : Nat) (h : lo + len ≤ 26) : field (encode (.snewc rate sfxlen sfx)) lo len =
      field (place sfx 14) lo len ||| field (place sfxlen 11) lo len ||| field (place rate 0) lo len := by
    rw [field_encode _ h, Instr.operandBits, field_or, field_or]
  have hrate : field (encode (.snewc rate sfxlen sfx)) 0 11 = rate := by
    simp [hfields, field_place_self, field_place_of_disjoint]
  have hlen : field (encode (.snewc rate sfxlen sfx)) 11 3 = sfxlen := by
    simp [hfields, field_place_self, field_place_of_disjoint]
  have hsfx : field (encode (.snewc rate sfxlen sfx)) 14 7 = sfx := by
    simp [hfields, field_place_self, field_place_of_disjoint]
  have hzero : field (encode (.snewc rate sfxlen sfx)) 21 5 = 0#5 := by simp [hfields, field_place_of_disjoint]
  have hop : (opcodeField (encode (.snewc rate sfxlen sfx))).toNat = 0x21 :=
    congrArg BitVec.toNat (Opcode.snewc rate sfxlen sfx)
  simp only [decode, hop, hrate, hlen, hsfx]
  exact checkForm_of_fields hzero hwf

/-- Decoding undoes encoding, command by command (R63 to R67). -/
theorem decode_encode {i : Instr} (hwf : i.wellFormed = true) : decode (encode i) = .ok i := by
  cases i with
  | reset | rdstat | theta | rho | pi | chi | permute => decide
  | fnew b => exact decode_encode_fnew b
  | pnew b nr => exact decode_encode_pnew b nr
  | bget x y z => exact decode_encode_bget x y z
  | bset x y z v => exact decode_encode_bset x y z v
  | iota ir => exact decode_encode_iota ir
  | round ir => exact decode_encode_round ir
  | snew p => exact decode_encode_snew hwf
  | snewc rate sfxlen sfx => exact decode_encode_snewc hwf
  | absorb cnt d0 d1 d2 => exact decode_encode_absorb hwf
  | squeeze n => exact decode_encode_squeeze n
  | digest => exact decode_encode_digest

/-- A word written out as that of a command decodes to it. -/
theorem decode_of_encode_eq {w : Word} {i : Instr} (hw : encode i = w) (hwf : i.wellFormed = true) :
    decode w = .ok i := by
  rw [← hw, decode_encode hwf]

/-! ### Encoding what a word decodes to -/

/-- Two adjacent fields put back are the field they make up put back. -/
theorem place_field_add (w : Word) (lo n m : Nat) :
    place (field w lo (n + m)) lo = place (field w (lo + n) m) (lo + n) ||| place (field w lo n) lo := by
  refine BitVec.eq_of_getLsbD_eq fun j hj => ?_
  simp only [BitVec.getLsbD_or, getLsbD_place, getLsbD_field, decide_eq_true hj, Bool.true_and]
  rcases Nat.lt_or_ge j lo with hlo | hlo
  · simp [hlo, show j < lo + n by omega]
  rcases Nat.lt_or_ge j (lo + n) with hn | hn
  · simp [Nat.not_lt.mpr hlo, hn, show j - lo < n by omega, show j - lo < n + m by omega]
  · have hsub : lo + n + (j - (lo + n)) = lo + (j - lo) := by omega
    have hlen : j - (lo + n) < m ↔ j - lo < n + m := by omega
    simp [Nat.not_lt.mpr hlo, Nat.not_lt.mpr hn, hsub, hlen, show ¬ j - lo < n by omega]

theorem place_field_of_zeroField {w : Word} {lo len : Nat} (h : zeroField w lo len = true) :
    place (field w lo len) lo = 0#32 := by
  rw [beq_iff_eq.mp h, place, BitVec.setWidth_zero, BitVec.zero_shiftLeft]

/-- A word is its opcode and the 26 bits below it. -/
theorem word_eq_fields (w : Word) : place (opcodeField w) 26 ||| place (field w 0 26) 0 = w := by
  have hall : place (field w 0 32) 0 = w := by
    refine BitVec.eq_of_getLsbD_eq fun j hj => ?_
    rw [getLsbD_place, getLsbD_field]
    simp [hj]
  rw [opcodeField, ← Nat.zero_add 26, ← place_field_add w 0 26 6, hall]

/-- What passing stage 2 says. -/
theorem checkForm_eq_ok {w : Word} {lo len : Nat} {extra : Bool} {i i' : Instr} (h : checkForm w lo len extra i' = .ok i) :
    zeroField w lo len = true ∧ extra = true ∧ i'.wellFormed = true ∧ i' = i := by
  obtain ⟨hz, hextra, hwf⟩ := (checkForm_isOk_iff w lo len extra i').mp ⟨i, h⟩
  simpa [checkForm, hz, hextra, hwf] using h

/-- Where stage 2 passes, encoding gives the word back if the zero field and the operands read make up the bits below the
opcode. -/
theorem encode_of_checkForm {w : Word} {lo len : Nat} {extra : Bool} {i i' : Instr}
    (h : checkForm w lo len extra i' = .ok i) (hop : (opcodeField w).toNat = i'.opcode.toNat)
    (hlow : place (field w lo len) lo = 0#32 → extra = true → place (field w 0 26) 0 = i'.operandBits) :
    encode i = w ∧ i.wellFormed = true := by
  obtain ⟨hz, hextra, hwf, rfl⟩ := checkForm_eq_ok h
  refine ⟨?_, hwf⟩
  rw [encode, ← hlow (place_field_of_zeroField hz) hextra, ← BitVec.eq_of_toNat_eq hop, word_eq_fields]

/-- Encoding undoes decoding, row by row of the opcode table (R63, R65, R67). -/
theorem encode_of_decode {w : Word} {i : Instr} (h : decode w = .ok i) : encode i = w ∧ i.wellFormed = true := by
  unfold decode at h
  split at h
  -- the rows without operands: RESET, RDSTAT, THETA, RHO, PI, CHI, PERMUTE, DIGEST
  case h_1 hop | h_2 hop | h_7 hop | h_8 hop | h_9 hop | h_10 hop | h_13 hop | h_18 hop =>
    exact encode_of_checkForm h hop fun hz _ => hz
  -- FNEW, whose second zero field is the nr of PNEW
  case h_3 hop =>
    refine encode_of_checkForm h hop fun hz hnr => ?_
    rw [place_field_add w 0 11 15, place_field_add w 11 8 7, hz, place_field_of_zeroField hnr]
    simp [Instr.operandBits]
  -- PNEW
  case h_4 hop =>
    refine encode_of_checkForm h hop fun hz _ => ?_
    rw [place_field_add w 0 11 15, place_field_add w 11 8 7, hz]
    simp [Instr.operandBits]
  -- BGET, whose second zero field is the v of BSET
  case h_5 hop =>
    refine encode_of_checkForm h hop fun hz hv => ?_
    rw [place_field_add w 0 7 19, place_field_add w 7 3 16, place_field_add w 10 3 13, place_field_add w 13 1 12, hz,
      place_field_of_zeroField hv]
    simp [Instr.operandBits]
  -- BSET
  case h_6 hop =>
    refine encode_of_checkForm h hop fun hz _ => ?_
    rw [place_field_add w 0 7 19, place_field_add w 7 3 16, place_field_add w 10 3 13, place_field_add w 13 1 12, hz,
      field_one]
    simp [Instr.operandBits]
  -- IOTA and ROUND
  case h_11 hop | h_12 hop =>
    refine encode_of_checkForm h hop fun hz _ => ?_
    rw [place_field_add w 0 8 18, hz]
    simp [Instr.operandBits]
  -- SNEW
  case h_14 hop =>
    refine encode_of_checkForm h hop fun hz _ => ?_
    rw [place_field_add w 0 3 23, hz]
    simp [Instr.operandBits]
  -- SNEWC
  case h_15 hop =>
    refine encode_of_checkForm h hop fun hz _ => ?_
    rw [place_field_add w 0 11 15, place_field_add w 11 3 12, place_field_add w 14 7 5, hz]
    simp [Instr.operandBits]
  -- ABSORB, which has no zero field
  case h_16 hop =>
    refine encode_of_checkForm h hop fun _ _ => ?_
    rw [place_field_add w 0 8 18, place_field_add w 8 8 10, place_field_add w 16 8 2]
    simp [Instr.operandBits]
  -- SQUEEZE
  case h_17 hop =>
    refine encode_of_checkForm h hop fun hz _ => ?_
    rw [place_field_add w 0 16 10, hz]
    simp [Instr.operandBits]
  -- no row has another opcode
  case h_19 => cases h

end Sys2Proof.Laws

namespace Sys2Proof.Proofs

open Sys2Proof.Laws

/-- Settles O10: every field of a command's word is the operand the decoder reads there, and its zero fields are zero. -/
theorem decodeOfEncode : Obligations.DecodeOfEncode := fun _ hwf => decode_encode hwf

/-- Settles O11: a decoded word is put together again from its opcode and its fields. -/
theorem encodeOfDecode : Obligations.EncodeOfDecode := fun _ _ h => encode_of_decode h

/-- Settles O8: each word is that of its command. -/
theorem sampleWordsDecode : Obligations.SampleWordsDecode :=
  ⟨decode_of_encode_eq encode_reset rfl, decode_of_encode_eq encode_rdstat rfl, decode_of_encode_eq (by decide) rfl,
    decode_of_encode_eq (by decide) rfl, decode_of_encode_eq (by decide) rfl, decode_of_encode_eq (by decide) rfl,
    decode_of_encode_eq (by decide) rfl, decode_of_encode_eq encode_permute rfl, decode_of_encode_eq (by decide) rfl,
    decode_of_encode_eq (by decide) rfl, decode_of_encode_eq (by decide) rfl, decode_of_encode_eq (by decide) rfl,
    decode_of_encode_eq encode_digest rfl⟩

end Sys2Proof.Proofs
end

section
/-! PROOFS. The sub-steps and the permutation as maps on the arrays of one width (41_permutation.md R90, R98, R105): the
inverses of rho, pi and iota, and why theta, chi and the whole permutation are bijections. -/

namespace Sys2Proof.Machine

/-! ### The arrays of one width -/

/-- The arrays of the width `25 · 2^l`. -/
abbrev arraysOf (l : Nat) : Set Bits := { A | ArrayFits (25 * 2 ^ l) A }

theorem isArray_of_fits {l : Nat} {A : Bits} (hl : l ≤ 6) (hA : A ∈ arraysOf l) : IsArray (2 ^ l) A (bitAt (2 ^ l) A) where
  pos := Nat.two_pow_pos l
  le := (Nat.pow_le_pow_right Nat.two_pos hl : 2 ^ l ≤ 2 ^ 6)
  fits := hA
  bits _ _ _ _ _ _ := rfl

/-- Arrays with the same bits at all coordinates are equal. -/
theorem IsArray.eq_of_bits {w : Nat} {A A' : Bits} {f f' : Nat → Nat → Nat → Bool} (h : IsArray w A f) (h' : IsArray w A' f')
    (hbits : ∀ x y z, x < 5 → y < 5 → z < w → f x y z = f' x y z) : A = A' :=
  bits_ext h.pos h.fits h'.fits fun x y z hx hy hz => by
    rw [h.bits x y z hx hy hz, h'.bits x y z hx hy hz, hbits x y z hx hy hz]

/-- Equal arrays have the same bits at all coordinates. -/
theorem IsArray.bits_of_eq {w : Nat} {A A' : Bits} {f f' : Nat → Nat → Nat → Bool} (h : IsArray w A f) (h' : IsArray w A' f')
    (heq : A = A') {x y z : Nat} (hx : x < 5) (hy : y < 5) (hz : z < w) : f x y z = f' x y z := by
  rw [← h.bits x y z hx hy hz, ← h'.bits x y z hx hy hz, heq]

/-- There are finitely many arrays, so a map of the arrays of a width into themselves is onto if it is one to one. -/
theorem bijOn_arraysOf {l : Nat} {g : Bits → Bits} (hmaps : Set.MapsTo g (arraysOf l) (arraysOf l))
    (hinj : Set.InjOn g (arraysOf l)) : Set.BijOn g (arraysOf l) (arraysOf l) :=
  have : Finite Bits := Finite.of_injective BitVec.toFin fun _ _ => BitVec.eq_of_toFin_eq
  ((Set.toFinite (arraysOf l)).injOn_iff_bijOn_of_mapsTo hmaps).mp hinj

/-! ### rho -/

theorem modSub_add_mod {z w : Nat} (k : Nat) (hz : z < w) : modSub ((z + k) % w) k w = z := by
  rw [modSub, Int.natCast_mod, Int.emod_sub_emod, Int.natCast_add, Int.add_sub_cancel, Int.emod_eq_of_lt (by omega) (by omega),
    Int.toNat_natCast]

theorem add_modSub_mod {z w : Nat} (k : Nat) (hz : z < w) : (modSub z k w + k) % w = z := by
  have h0 := Int.emod_nonneg ((z : Int) - k) (b := w) (by omega)
  zify
  rw [modSub, Int.toNat_of_nonneg h0, Int.emod_add_emod, Int.sub_add_cancel, Int.emod_eq_of_lt (by omega) (by omega)]

/-- Rotating a lane right moves bit `(z + k) mod w` to bit `z` (R105). -/
theorem getLsbD_rotateRight_eq_add_mod {w z : Nat} (v : BitVec w) (k : Nat) (hz : z < w) :
    (v.rotateRight k).getLsbD z = v.getLsbD ((z + k) % w) := by
  have hk : k % w < w := Nat.mod_lt _ (by omega)
  rw [BitVec.getLsbD_rotateRight, decide_eq_true hz, Bool.true_and, Bool.cond_decide, Nat.add_mod_eq_ite, Nat.mod_eq_of_lt hz]
  split
  · rw [if_neg (by omega), Nat.add_comm]
  · rw [if_pos (by omega)]
    congr 1
    omega

section
variable {w : Nat} {A : Bits} {f : Nat → Nat → Nat → Bool} (h : IsArray w A f)
include h

theorem isArray_rhoInverse : IsArray w (rhoInverse w A) fun x y z => f x y ((z + rotationOffset x y) % w) :=
  isArray_arrayOf h.pos h.le fun x y z hx hy hz => by
    rw [getLsbD_rotateRight_eq_add_mod _ _ hz, h.getLsbD_lane hx hy (Nat.mod_lt _ h.pos)]

theorem rhoInverse_rho : rhoInverse w (rho w A) = A :=
  (isArray_rhoInverse (isArray_rho h)).eq_of_bits h fun x y z _ _ hz => by rw [rhoRule, modSub_add_mod _ hz]

theorem rho_rhoInverse : rho w (rhoInverse w A) = A :=
  (isArray_rho (isArray_rhoInverse h)).eq_of_bits h fun x y z _ _ hz => by rw [rhoRule, add_modSub_mod _ hz]

/-! ### pi -/

theorem isArray_piInverse : IsArray w (piInverse w A) fun x y z => f y ((2 * x + 3 * y) % 5) z :=
  isArray_arrayOf h.pos h.le fun _ _ _ _ hy hz => h.getLsbD_lane hy (Nat.mod_lt _ (by decide)) hz

theorem piInverse_pi : piInverse w (pi w A) = A :=
  (isArray_piInverse (isArray_pi h)).eq_of_bits h fun x y z hx _ _ => by
    rw [piRule, show (y + 3 * ((2 * x + 3 * y) % 5)) % 5 = x by omega]

theorem pi_piInverse : pi w (piInverse w A) = A :=
  (isArray_pi (isArray_piInverse h)).eq_of_bits h fun x y z _ hy _ => by
    rw [piRule, show (2 * ((x + 3 * y) % 5) + 3 * x) % 5 = y by omega]

end

/-! ### iota -/

theorem iota_iota (w l : Nat) (ir : Int) (A : Bits) : iota w l ir (iota w l ir A) = A := by
  rw [iota, iota, BitVec.xor_assoc, BitVec.xor_self, BitVec.xor_zero]

/-! ### theta

theta adds to each bit a sum of column parities. The parities of the new array are those of the old one under a linear map
(`diffusionStep 1`), so theta can be undone once the parities can. Squaring that map doubles its distances, because in a sum
modulo 2 the mixed terms cancel; so its `2^l`-th power moves by the lane length, where the rotation along z is none, and there
the coordinates modulo 5 make its cube the identity. -/

/-- Each parity with two of its neighbours, at the distance `a`. -/
def diffusionStep (a : Int) (C : Int → Int → Bool) (x z : Int) : Bool := C x z ^^ C (x - a) z ^^ C (x + a) (z - a)

/-- In the square of a step each mixed term occurs twice. -/
theorem xor_square_cancel : ∀ c p q p' m q' : Bool, (c ^^ p ^^ q ^^ (p ^^ p' ^^ m) ^^ (q ^^ m ^^ q')) = (c ^^ p' ^^ q') := by
  decide

theorem diffusionStep_diffusionStep (a : Int) (C : Int → Int → Bool) :
    diffusionStep a (diffusionStep a C) = diffusionStep (a + a) C := by
  funext x z
  have h1 : x - a + a = x := by omega
  have h2 : x + a - a = x := by omega
  simp only [diffusionStep, h1, h2, Int.sub_sub, Int.add_assoc]
  exact xor_square_cancel ..

/-- What a step at the distance 1 does not tell apart, its powers do not tell apart either. -/
theorem diffusionStep_two_pow_congr {C C' : Int → Int → Bool} (h : diffusionStep 1 C = diffusionStep 1 C') (k : Nat) :
    diffusionStep (2 ^ k) C = diffusionStep (2 ^ k) C' := by
  induction k with
  | zero => exact h
  | succ k ih => rw [Int.pow_succ, mul_two, ← diffusionStep_diffusionStep, ← diffusionStep_diffusionStep, ih]

/-- Parities given modulo 5 and modulo the lane length. -/
def IsPeriodic (w : Nat) (C : Int → Int → Bool) : Prop :=
  ∀ x x' z z' : Int, x % 5 = x' % 5 → z % w = z' % w → C x z = C x' z'

/-- In the cube of a step of five coordinates every neighbour occurs twice. -/
theorem xor_cube_cancel : ∀ c p q p' q' : Bool, (c ^^ p' ^^ q' ^^ (p ^^ q' ^^ q) ^^ (q ^^ p ^^ p')) = c := by
  decide

/-- At the distance of the lane length the map's cube is the identity. -/
theorem diffusionStep_cube {w : Nat} {C : Int → Int → Bool} (hC : IsPeriodic w C) :
    diffusionStep w (diffusionStep (w + w) C) = C := by
  funext x z
  have hz (x : Int) (k : Int) : C x (z - k * w) = C x z := hC _ _ _ _ rfl (Int.sub_mul_emod_self_right ..)
  have hz1 (x : Int) : C x (z - w) = C x z := by simpa using hz x 1
  have hz2 (x : Int) : C x (z - (w + w)) = C x z := by simpa [Int.two_mul] using hz x 2
  have hz3 (x : Int) : C x (z - w - (w + w)) = C x z := by
    rw [← hz x 3]
    congr 1
    omega
  have hx1 : C (x - w - (w + w)) z = C (x + (w + w)) z := hC _ _ _ _ (by omega) rfl
  have hx2 : C (x + w + (w + w)) z = C (x - (w + w)) z := hC _ _ _ _ (by omega) rfl
  have hx3 : x - w + (w + w) = x + w := by omega
  have hx4 : x + w - (w + w) = x - w := by omega
  simp only [diffusionStep, hz1, hz2, hz3, hx1, hx2, hx3, hx4]
  exact xor_cube_cancel ..

theorem diffusionStep_injective {l : Nat} {C C' : Int → Int → Bool} (hC : IsPeriodic (2 ^ l) C) (hC' : IsPeriodic (2 ^ l) C')
    (h : diffusionStep 1 C = diffusionStep 1 C') : C = C' := by
  have h2 := diffusionStep_two_pow_congr h (l + 1)
  rw [Int.pow_succ, mul_two] at h2
  rw [← diffusionStep_cube hC, ← diffusionStep_cube hC', Int.natCast_pow]
  exact congrArg _ h2

/-- The column parities of an array, at all integers. -/
def parityAt (w : Nat) (f : Nat → Nat → Nat → Bool) (x z : Int) : Bool := parityRule f (x % 5).toNat (z % w).toNat

theorem isPeriodic_parityAt (w : Nat) (f : Nat → Nat → Nat → Bool) : IsPeriodic w (parityAt w f) := by
  intro x x' z z' hx hz
  rw [parityAt, parityAt, hx, hz]

theorem parityRule_congr {f f' : Nat → Nat → Nat → Bool} {x z : Nat} (h : ∀ y < 5, f x y z = f' x y z) :
    parityRule f x z = parityRule f' x z := by
  simp [parityRule, h]

theorem parityAt_natCast {w x z : Nat} (f : Nat → Nat → Nat → Bool) (hx : x < 5) (hz : z < w) :
    parityAt w f x z = parityRule f x z := by
  rw [parityAt, Int.emod_eq_of_lt (by omega) (by omega), Int.emod_eq_of_lt (by omega) (by omega), Int.toNat_natCast,
    Int.toNat_natCast]

/-- The sum theta adds, by the parities at all integers (R95). -/
theorem diffusionRule_eq_parityAt {w x z : Nat} (f : Nat → Nat → Nat → Bool) (hz : z < w) :
    diffusionRule w f x z = (parityAt w f (x - 1) z ^^ parityAt w f (x + 1) (z - 1)) := by
  have hz' : ((z : Int) % w).toNat = z := by rw [Int.emod_eq_of_lt (by omega) (by omega), Int.toNat_natCast]
  have hnext : (((x : Int) + 1) % 5).toNat = (x + 1) % 5 := by omega
  rw [diffusionRule, parityAt, parityAt, hz', hnext]
  rfl

/-- Five times the same sum in a column is that sum, so theta maps parities by one step (R95). -/
theorem parityRule_thetaRule {w x z : Nat} (f : Nat → Nat → Nat → Bool) (hx : x < 5) (hz : z < w) :
    parityRule (thetaRule w f) x z = diffusionStep 1 (parityAt w f) x z := by
  rw [diffusionStep, parityAt_natCast f hx hz, Bool.xor_assoc, ← diffusionRule_eq_parityAt f hz]
  simp only [parityRule, thetaRule]
  grind

theorem parityAt_thetaRule {w : Nat} (hw : 0 < w) (f : Nat → Nat → Nat → Bool) :
    parityAt w (thetaRule w f) = diffusionStep 1 (parityAt w f) := by
  funext x z
  have hx0 := Int.emod_nonneg x (b := 5) (by decide)
  have hz0 := Int.emod_nonneg z (b := w) (by omega)
  have hz1 := Int.emod_lt_of_pos z (b := w) (by omega)
  have hper : diffusionStep 1 (parityAt w f) ((x % 5).toNat : Int) ((z % w).toNat : Int) =
      diffusionStep 1 (parityAt w f) x z := by
    rw [Int.toNat_of_nonneg hx0, Int.toNat_of_nonneg hz0]
    have hz' : (z % w - 1) % w = (z - 1) % w := Int.emod_sub_emod ..
    simp only [diffusionStep]
    rw [isPeriodic_parityAt w f (x % 5) x (z % w) z (by omega) (Int.emod_emod ..),
      isPeriodic_parityAt w f (x % 5 - 1) (x - 1) (z % w) z (by omega) (Int.emod_emod ..),
      isPeriodic_parityAt w f (x % 5 + 1) (x + 1) (z % w - 1) (z - 1) (by omega) hz']
  rw [← hper, ← parityRule_thetaRule f (by omega) (by omega), parityAt]

theorem theta_injOn {l : Nat} (hl : l ≤ 6) : Set.InjOn (theta (2 ^ l)) (arraysOf l) := by
  intro A hA A' hA' heq
  have h := isArray_of_fits hl hA
  have h' := isArray_of_fits hl hA'
  generalize bitAt (2 ^ l) A = f at h
  generalize bitAt (2 ^ l) A' = f' at h'
  have hrule {x y z : Nat} (hx : x < 5) (hy : y < 5) (hz : z < 2 ^ l) :
      thetaRule (2 ^ l) f x y z = thetaRule (2 ^ l) f' x y z :=
    (isArray_theta h).bits_of_eq (isArray_theta h') heq hx hy hz
  have hparity : parityAt (2 ^ l) (thetaRule (2 ^ l) f) = parityAt (2 ^ l) (thetaRule (2 ^ l) f') := by
    funext x z
    have hx : (x % 5).toNat < 5 := by omega
    have hz : (z % (2 ^ l : Nat)).toNat < 2 ^ l := by
      have := Int.emod_lt_of_pos z (b := (2 ^ l : Nat)) (by have := h.pos; omega)
      have := h.pos
      omega
    exact parityRule_congr fun y hy => hrule hx hy hz
  have hsame : parityAt (2 ^ l) f = parityAt (2 ^ l) f' :=
    diffusionStep_injective (isPeriodic_parityAt _ f) (isPeriodic_parityAt _ f') (by
      rw [← parityAt_thetaRule h.pos, ← parityAt_thetaRule h.pos, hparity])
  refine h.eq_of_bits h' fun x y z hx hy hz => ?_
  have hbit := hrule hx hy hz
  rwa [thetaRule, thetaRule, diffusionRule_eq_parityAt f hz, diffusionRule_eq_parityAt f' hz, hsame,
    Bool.xor_left_inj] at hbit

theorem theta_bijOn {l : Nat} (hl : l ≤ 6) : Set.BijOn (theta (2 ^ l)) (arraysOf l) (arraysOf l) :=
  bijOn_arraysOf (fun _ hA => (isArray_theta (isArray_of_fits hl hA)).fits) (theta_injOn hl)

/-! ### chi -/

/-- chi acts on each row of five bits as the table of R98 says. -/
theorem rowValue_chiRule (A : Nat → Nat → Nat → Bool) (y z : Nat) :
    rowValue (chiRule A) y z = chiRow.getD (rowValue A y z) 0 := by
  simp only [rowValue, chiRule, Nat.reduceAdd, Nat.reduceMod]
  generalize A 0 y z = a0, A 1 y z = a1, A 2 y z = a2, A 3 y z = a3, A 4 y z = a4
  revert a0 a1 a2 a3 a4
  decide

theorem rowValue_lt (A : Nat → Nat → Nat → Bool) (y z : Nat) : rowValue A y z < 32 := by
  have hle (x : Nat) : (A x y z).toNat ≤ 1 := Bool.toNat_le _
  have := hle 0; have := hle 1; have := hle 2; have := hle 3; have := hle 4
  unfold rowValue
  omega

/-- The value of a row says its bits. -/
theorem bits_of_rowValue_eq {A A' : Nat → Nat → Nat → Bool} {y z : Nat} (h : rowValue A y z = rowValue A' y z) {x : Nat}
    (hx : x < 5) : A x y z = A' x y z := by
  have hle (x : Nat) : (A x y z).toNat ≤ 1 ∧ (A' x y z).toNat ≤ 1 := ⟨Bool.toNat_le _, Bool.toNat_le _⟩
  have := hle 0; have := hle 1; have := hle 2; have := hle 3; have := hle 4
  rw [Bool.eq_iff_iff, ← Bool.toNat_eq_one, ← Bool.toNat_eq_one]
  unfold rowValue at h
  interval_cases x <;> omega

/-- The table of R98 is a permutation of 0..31. -/
theorem chiRow_injective : ∀ v < 32, ∀ v' < 32, chiRow.getD v 0 = chiRow.getD v' 0 → v = v' := by decide

theorem chi_injOn {l : Nat} (hl : l ≤ 6) : Set.InjOn (chi (2 ^ l)) (arraysOf l) := by
  intro A hA A' hA' heq
  have h := isArray_of_fits hl hA
  have h' := isArray_of_fits hl hA'
  refine h.eq_of_bits h' fun x y z hx hy hz => bits_of_rowValue_eq ?_ hx
  refine chiRow_injective _ (rowValue_lt ..) _ (rowValue_lt ..) ?_
  have hrule {x : Nat} (hx : x < 5) : chiRule (bitAt (2 ^ l) A) x y z = chiRule (bitAt (2 ^ l) A') x y z :=
    (isArray_chi h).bits_of_eq (isArray_chi h') heq hx hy hz
  rw [← rowValue_chiRule, ← rowValue_chiRule]
  simp [rowValue, hrule]

theorem chi_bijOn {l : Nat} (hl : l ≤ 6) : Set.BijOn (chi (2 ^ l)) (arraysOf l) (arraysOf l) :=
  bijOn_arraysOf (fun _ hA => (isArray_chi (isArray_of_fits hl hA)).fits) (chi_injOn hl)

/-! ### The permutation -/

section
variable {l : Nat} (hl : l ≤ 6)
include hl

theorem rho_bijOn : Set.BijOn (rho (2 ^ l)) (arraysOf l) (arraysOf l) :=
  bijOn_arraysOf (fun _ hA => (isArray_rho (isArray_of_fits hl hA)).fits)
    (Set.LeftInvOn.injOn (f₁' := rhoInverse (2 ^ l)) fun _ hA => rhoInverse_rho (isArray_of_fits hl hA))

theorem pi_bijOn : Set.BijOn (pi (2 ^ l)) (arraysOf l) (arraysOf l) :=
  bijOn_arraysOf (fun _ hA => (isArray_pi (isArray_of_fits hl hA)).fits)
    (Set.LeftInvOn.injOn (f₁' := piInverse (2 ^ l)) fun _ hA => piInverse_pi (isArray_of_fits hl hA))

theorem iota_bijOn (ir : Int) : Set.BijOn (iota (2 ^ l) l ir) (arraysOf l) (arraysOf l) :=
  bijOn_arraysOf (fun _ hA => (isArray_iota (isArray_of_fits hl hA) l ir).fits)
    (Set.LeftInvOn.injOn (f₁' := iota (2 ^ l) l ir) fun A _ => iota_iota (2 ^ l) l ir A)

/-- The round is a bijection, as each of its sub-steps is (R105). -/
theorem rnd_bijOn (ir : Int) : Set.BijOn (rnd (2 ^ l) l ir) (arraysOf l) (arraysOf l) :=
  (iota_bijOn hl ir).comp ((chi_bijOn hl).comp ((pi_bijOn hl).comp ((rho_bijOn hl).comp (theta_bijOn hl))))

theorem rounds_bijOn (n : Nat) (ir : Int) : Set.BijOn (rounds (2 ^ l) l n ir) (arraysOf l) (arraysOf l) := by
  induction n generalizing ir with
  | zero => exact Set.bijOn_id _
  | succ n ih => exact (ih (ir + 1)).comp (rnd_bijOn hl ir)

end

end Sys2Proof.Machine

namespace Sys2Proof.Proofs

open Sys2Proof.Machine

/-- Settles O40, along the 24 steps of the walk. -/
theorem rhoOffsetsFollowWalk : Obligations.RhoOffsetsFollowWalk := by
  have hvisits : ∀ x < 5, ∀ y < 5, (x, y) ≠ (0, 0) → ∃ t, t < 24 ∧ offsetWalk t = (x, y) := by decide
  exact ⟨by decide, by decide, fun x y hx hy => hvisits x hx y hy⟩

/-- Settles O41, over the 32 values of a row. -/
theorem chiActsOnRowsByTable : Obligations.ChiActsOnRowsByTable := rowValue_chiRule

/-- Settles O42, bit by bit: the coordinates a step and its inverse read cancel, and iota XORs the same constant twice. -/
theorem rhoPiIotaInverses : Obligations.RhoPiIotaInverses := by
  intro l A hl hA
  have h := isArray_of_fits hl hA
  exact ⟨rhoInverse_rho h, rho_rhoInverse h, piInverse_pi h, pi_piInverse h, fun ir => iota_iota (2 ^ l) l ir A⟩

/-- Settles O43: theta's map of the column parities can be undone, and with the parities theta can. -/
theorem thetaIsBijective : Obligations.ThetaIsBijective := fun _ hl => theta_bijOn hl

/-- Settles O44: every round is a bijection, so any number of them is. -/
theorem permutationIsBijective : Obligations.PermutationIsBijective :=
  fun l nr hl => rounds_bijOn hl nr (firstRound l nr)

end Sys2Proof.Proofs
end

section
/-! PROOFS. Rules about every step and every command: what a step does with its input (60_exceptions.md R174,
70_reset_and_hazards.md R180), the parts of the response (30_encoding.md R69), what a command leaves unchanged, and that
neither the command port nor another engine matters to it. -/

namespace Sys2Proof.Machine

/-! ### The engines of a chip -/

/-- The state after one step. -/
def State.stepped (s : State) : State :=
  match step s with
  | .next t => t
  | .fault _ => s
  | .refused _ => s

theorem step_eq_stepped (s : State) : step s = .next s.stepped := by
  obtain ⟨t, ht⟩ := step_completes s
  rw [State.stepped, ht]

/-- A step of a chip is a step of one of its engines, where there is that engine (20_memory.md R56). -/
theorem Chip.step_eq (k : Nat) (c : Chip) : Chip.step k c = .next ⟨c.engines.modify k State.stepped⟩ := by
  unfold Chip.step
  cases h : c.engines[k]? with
  | none => simp [List.modify_eq_self (List.getElem?_eq_none_iff.mp h)]
  | some s =>
    obtain ⟨hk, rfl⟩ := List.getElem?_eq_some_iff.mp h
    simp only [step_eq_stepped, List.modify_eq_set_get _ hk, List.get_eq_getElem]

/-! ### The parts of a response -/

/-- The value word of a command that succeeds: STATUS for RDSTAT, the bit read for BGET, 0 for every other (R69). -/
def okValue (s : State) : Instr → Word
  | .rdstat => statusWord s
  | .bget x y z => (BitVec.ofBool (s.bit x.toNat y.toNat z.toNat)).setWidth 32
  | _ => 0#32

theorem okValue_eq_zero {i : Instr} (s : State) (h : i ≠ .rdstat) (h' : ∀ x y z, i ≠ .bget x y z) : okValue s i = 0#32 := by
  cases i with
  | rdstat => exact absurd rfl h
  | bget x y z => exact absurd rfl (h' x y z)
  | _ => rfl

/-- What R69 says of the response `r` to the command `i` in the state `s`. -/
def ResponseParts (i : Instr) (s : State) (r : Response) : Prop :=
  r.err.toNat ≤ 6 ∧ (r.err ≠ 0#4 → r.val = 0#32 ∧ r.dout = []) ∧ (i = .rdstat → r.val = statusWord s) ∧
    (∀ x y z, i = .bget x y z → r.err = 0#4 → r.val = if s.bit x.toNat y.toNat z.toNat = true then 1#32 else 0#32) ∧
    (i ≠ .rdstat → (∀ x y z, i ≠ .bget x y z) → r.val = 0#32) ∧
    ((∀ n, i ≠ .squeeze n) → i ≠ .digest → r.dout = [])

theorem responseParts_error {i : Instr} (hi : i ≠ .rdstat) (s : State) (e : EngineError) :
    ResponseParts i s (errorResponse e) :=
  ⟨by cases e <;> decide, fun _ => ⟨rfl, rfl⟩, fun h => absurd h hi, fun _ _ _ _ h0 => absurd h0 (errorCode_ne_zero e),
    fun _ _ => rfl, fun _ _ => rfl⟩

theorem responseParts_ok {i : Instr} (s : State) {dout : List Byte}
    (hdout : (∀ n, i ≠ .squeeze n) → i ≠ .digest → dout = []) : ResponseParts i s (okResponse (okValue s i) dout) :=
  ⟨Nat.zero_le _, fun h => absurd rfl h, fun h => by rw [h]; rfl, fun _ _ _ h _ => by rw [h]; exact setWidth_ofBool _,
    okValue_eq_zero s, hdout⟩

/-- The command ends with one response, of the parts R69 says. -/
def ReturnsParts (i : Instr) (s : State) (a : Result) : Prop :=
  ∃ t r, a = .next t ∧ t.responses = s.responses ++ [r] ∧ ResponseParts i s r

theorem returnsParts_raise {i : Instr} (hi : i ≠ .rdstat) (s : State) (e : EngineError) : ReturnsParts i s (raise e s) :=
  ⟨_, _, rfl, rfl, responseParts_error hi s e⟩

/-- A command without output bytes. -/
theorem returnsParts_respond {i : Instr} {s u : State} (hu : u.responses = s.responses) :
    ReturnsParts i s (respond (okValue s i) [] u) :=
  ⟨_, _, rfl, by rw [State.reply_responses, hu], responseParts_ok s fun _ _ => rfl⟩

theorem returnsParts_squeezeEffect {i : Instr} (s : State) (n : Nat) (hi : (∃ m, i = .squeeze m) ∨ i = .digest) :
    ReturnsParts i s (squeezeEffect n s) := by
  obtain ⟨-, hresp⟩ := s.beginSqueeze_keeps
  have hval : okValue s i = 0#32 := by obtain ⟨m, rfl⟩ | rfl := hi <;> rfl
  refine ⟨_, _, rfl, by rw [State.reply_responses, State.withPos_responses, hresp], hval ▸ responseParts_ok s fun hsq hd => ?_⟩
  obtain ⟨m, rfl⟩ | rfl := hi
  · exact absurd rfl (hsq m)
  · exact absurd rfl hd

/-- The shape of every command with checks. -/
theorem returnsParts_checked {i : Instr} {s : State} {a : Result} (c : Option EngineError) (hi : i ≠ .rdstat)
    (ha : ReturnsParts i s a) : ReturnsParts i s (match c with | some e => raise e s | none => a) := by
  cases c with
  | none => exact ha
  | some e => exact returnsParts_raise hi s e

theorem exec_returnsParts (i : Instr) (s : State) : ReturnsParts i s (exec i s) := by
  cases i with
  | reset | rdstat => exact returnsParts_respond rfl
  | snew p =>
    simp only [exec, execSnew]
    cases profileRow p with
    | none => exact returnsParts_raise (i := .snew p) nofun s _
    | some row => exact returnsParts_respond rfl
  | squeeze n => exact returnsParts_checked _ nofun (returnsParts_squeezeEffect s _ (.inl ⟨n, rfl⟩))
  | digest => exact returnsParts_checked _ nofun (returnsParts_squeezeEffect s _ (.inr rfl))
  | fnew | pnew | bget | bset | theta | rho | pi | chi | iota | round | permute | snewc | absorb =>
    exact returnsParts_checked _ nofun (returnsParts_respond rfl)

/-! ### What a command leaves unchanged -/

/-- The configuration and the sponge's parameters (10_state.md sections 2 to 4). -/
abbrev SameParameters (s t : State) : Prop :=
  t.B = s.B ∧ t.W = s.W ∧ t.L = s.L ∧ t.NR = s.NR ∧ t.mode = s.mode ∧ t.rate = s.rate ∧ t.sfxLen = s.sfxLen ∧
    t.sfx = s.sfx ∧ t.outBits = s.outBits ∧ t.profile = s.profile

theorem State.beginSqueeze_sameParameters (s : State) : SameParameters s s.beginSqueeze := by
  unfold State.beginSqueeze
  cases s.phase <;> exact ⟨rfl, rfl, rfl, rfl, rfl, rfl, rfl, rfl, rfl, rfl⟩

/-- A command that neither constructs nor resets leaves the parameters. -/
theorem exec_sameParameters {i : Instr} {s t : State} (ht : exec i s = .next t) (hreset : i ≠ .reset)
    (hfnew : ∀ b, i ≠ .fnew b) (hpnew : ∀ b nr, i ≠ .pnew b nr) (hsnew : ∀ p, i ≠ .snew p)
    (hsnewc : ∀ rate sfxlen sfx, i ≠ .snewc rate sfxlen sfx) : SameParameters s t := by
  obtain ⟨e, h⟩ | ⟨rfl, -⟩ | ⟨val, -, h⟩ | ⟨b, nr, -, ⟨rfl, -⟩ | rfl, -⟩ | ⟨x, y, z, v, -, -, -, -, -, h⟩ | ⟨A, -, -, h⟩ |
    ⟨p, row, rfl, -, -⟩ | ⟨rate, sfxlen, sfx, rfl, -, -, -⟩ | ⟨cnt, d0, d1, d2, -, -, -, -, h⟩ | ⟨n, -, -, -, h⟩ :=
    exec_cases i s
  on_goal 11 =>
    cases h.symm.trans ht
    exact s.beginSqueeze_sameParameters
  on_goal 9 => exact absurd rfl (hsnewc rate sfxlen sfx)
  on_goal 8 => exact absurd rfl (hsnew p)
  on_goal 5 => exact absurd rfl (hpnew b nr)
  on_goal 4 => exact absurd rfl (hfnew b)
  on_goal 2 => exact absurd rfl hreset
  all_goals
    cases h.symm.trans ht
    exact ⟨rfl, rfl, rfl, rfl, rfl, rfl, rfl, rfl, rfl, rfl⟩

/-- A command leaves the phase as it was, or it resets, constructs or squeezes. -/
theorem exec_phase_cases {i : Instr} {s t : State} (ht : exec i s = .next t) :
    t.phase = s.phase ∨ t.phase = .none ∨
    (t.phase = .absorbing ∧ ((∃ p, i = .snew p) ∨ ∃ rate sfxlen sfx, i = .snewc rate sfxlen sfx)) ∨
    (t.phase = .squeezing ∧ s.phase ≠ .none ∧ ((∃ n, i = .squeeze n) ∨ i = .digest)) := by
  obtain ⟨e, h⟩ | ⟨-, h⟩ | ⟨val, -, h⟩ | ⟨b, nr, -, -, h⟩ | ⟨x, y, z, v, -, -, -, -, -, h⟩ | ⟨A, -, -, h⟩ |
    ⟨p, row, rfl, -, h⟩ | ⟨rate, sfxlen, sfx, rfl, -, -, h⟩ | ⟨cnt, d0, d1, d2, -, -, -, -, h⟩ | ⟨n, hi, -, hp, h⟩ :=
    exec_cases i s
  on_goal 10 =>
    obtain ⟨u, dout, hu, hphase, -⟩ := squeezeEffect_next n hp
    cases (h.trans hu).symm.trans ht
    refine .inr (.inr (.inr ⟨hphase, hp, ?_⟩))
    obtain ⟨m, rfl, -⟩ | ⟨rfl, -⟩ := hi
    · exact .inl ⟨m, rfl⟩
    · exact .inr rfl
  all_goals cases h.symm.trans ht
  · exact .inl rfl
  · exact .inr (.inl rfl)
  · exact .inl rfl
  · exact .inr (.inl rfl)
  · exact .inl rfl
  · exact .inl rfl
  · exact .inr (.inr (.inl ⟨rfl, .inl ⟨p, rfl⟩⟩))
  · exact .inr (.inr (.inl ⟨rfl, .inr ⟨rate, sfxlen, sfx, rfl⟩⟩))
  · exact .inl rfl

/-! ### The message buffer -/

/-- ABSORB raises an error or appends its bytes (42_sponge.md R126). -/
theorem exec_absorb_cases (cnt : BitVec 2) (d0 d1 d2 : Byte) (s : State) :
    (∃ e, exec (.absorb cnt d0 d1 d2) s = raise e s) ∨
    exec (.absorb cnt d0 d1 d2) s = respond 0#32 [] (s.append (absorbBytes cnt d0 d1 d2)) := by
  simp only [exec, execAbsorb]
  cases ((dataForm cnt d0 d1 d2).or (absorbingOnly s)).or (capacityCheck s cnt) with
  | none => exact .inr rfl
  | some e => exact .inl ⟨e, rfl⟩

/-- A Perm command raises an error or succeeds with no effect but on the array. -/
theorem exec_permCommand_cases {i : Instr} (hi : PermCommand i) (s : State) :
    (∃ e, exec i s = raise e s) ∨ ∃ val A, exec i s = respond val [] (s.withArray A) := by
  obtain ⟨x, y, z, rfl⟩ | ⟨x, y, z, v, rfl⟩ | ⟨A, hA⟩ := permCommand_cases hi s
  · simp only [exec, execBget]
    cases (permOnly s).or (boundsCheck s x y z) with
    | none => exact .inr ⟨_, s.A, rfl⟩
    | some e => exact .inl ⟨e, rfl⟩
  · simp only [exec, execBset]
    cases (permOnly s).or (boundsCheck s x y z) with
    | none => exact .inr ⟨_, _, rfl⟩
    | some e => exact .inl ⟨e, rfl⟩
  · by_cases hm : s.mode = .perm
    · exact .inr ⟨_, _, (exec_permuted hA).1 hm⟩
    · exact .inl ⟨_, (exec_permuted hA).2 hm⟩

/-- SQUEEZE and DIGEST raise an error, or have the one effect of a squeeze (42_sponge.md R131, R136). -/
theorem exec_squeezes_cases {i : Instr} (hi : (∃ n, i = .squeeze n) ∨ i = .digest) (s : State) :
    (∃ e, exec i s = raise e s) ∨ ∃ n, exec i s = squeezeEffect n s := by
  obtain ⟨n, rfl⟩ | rfl := hi
  · simp only [exec, execSqueeze]
    cases spongeOnly s with
    | none => exact .inr ⟨_, rfl⟩
    | some e => exact .inl ⟨e, rfl⟩
  · simp only [exec, execDigest]
    cases fixedOutputOnly s with
    | none => exact .inr ⟨_, rfl⟩
    | some e => exact .inl ⟨e, rfl⟩

/-- Only in the Absorbing phase a squeeze touches the message. -/
theorem State.beginSqueeze_msg {s : State} (hp : s.phase ≠ .absorbing) : s.beginSqueeze.msg = s.msg := by
  unfold State.beginSqueeze
  cases h : s.phase with
  | absorbing => exact absurd h hp
  | none | squeezing => rfl

/-- A command that reads STATUS, one of Perm mode, or a squeeze after the first leaves the message. -/
theorem exec_msg_eq {i : Instr} {s t : State} (ht : exec i s = .next t)
    (hi : i = .rdstat ∨ PermCommand i ∨ (s.phase ≠ .absorbing ∧ ((∃ n, i = .squeeze n) ∨ i = .digest))) :
    t.msg = s.msg := by
  obtain rfl | hi | ⟨hp, hi⟩ := hi
  · cases (exec_rdstat s).symm.trans ht
    rfl
  · obtain ⟨e, h⟩ | ⟨val, A, h⟩ := exec_permCommand_cases hi s <;> cases h.symm.trans ht <;> rfl
  · obtain ⟨e, h⟩ | ⟨n, h⟩ := exec_squeezes_cases hi s <;> cases h.symm.trans ht
    · rfl
    · exact State.beginSqueeze_msg hp

/-! ### The command port -/

/-- Result `a`, of a command in `s`, adds one response and leaves the pending inputs and the configuration; result `b`, of the
same command with other inputs pending and other responses before, is the same but for these. -/
def SameBehindPort (s : State) (q : List HostInput) (past : List Response) (a b : Result) : Prop :=
  ∃ t r, a = .next t ∧ t.responses = s.responses ++ [r] ∧ t.inputs = s.inputs ∧ t.cfg = s.cfg ∧
    b = .next { t with inputs := q, responses := past ++ [r] }

section
variable {s : State} {q : List HostInput} {past : List Response}

theorem sameBehindPort_respond {u : State} (val : Word) (dout : List Byte) (hresp : u.responses = s.responses)
    (hin : u.inputs = s.inputs) (hcfg : u.cfg = s.cfg) :
    SameBehindPort s q past (respond val dout u) (respond val dout { u with inputs := q, responses := past }) :=
  ⟨_, okResponse val dout, rfl, by rw [State.reply_responses, hresp], hin, hcfg, rfl⟩

theorem sameBehindPort_raise (e : EngineError) :
    SameBehindPort s q past (raise e s) (raise e { s with inputs := q, responses := past }) :=
  ⟨_, errorResponse e, rfl, rfl, rfl, rfl, rfl⟩

/-- The shape of every command with checks: they look at neither side of the port. -/
theorem sameBehindPort_checked {a b : Result} (c : Option EngineError) (hab : SameBehindPort s q past a b) :
    SameBehindPort s q past (match c with | some e => raise e s | none => a)
      (match c with | some e => raise e { s with inputs := q, responses := past } | none => b) := by
  cases c with
  | none => exact hab
  | some e => exact sameBehindPort_raise e

variable (s q past) in
theorem State.beginSqueeze_port : ({ s with inputs := q, responses := past } : State).beginSqueeze =
    { s.beginSqueeze with inputs := q, responses := past } := by
  cases h : s.phase <;> simp [State.beginSqueeze, State.finalize, finalArray, h]

theorem State.beginSqueeze_inputs_cfg (s : State) :
    s.beginSqueeze.inputs = s.inputs ∧ s.beginSqueeze.cfg = s.cfg := by
  unfold State.beginSqueeze
  cases s.phase <;> exact ⟨rfl, rfl⟩

theorem sameBehindPort_squeezeEffect (n : Nat) :
    SameBehindPort s q past (squeezeEffect n s) (squeezeEffect n { s with inputs := q, responses := past }) := by
  obtain ⟨-, hresp⟩ := s.beginSqueeze_keeps
  obtain ⟨hin, hcfg⟩ := s.beginSqueeze_inputs_cfg
  simp only [squeezeEffect, State.beginSqueeze_port]
  exact sameBehindPort_respond _ _ hresp hin hcfg

theorem exec_sameBehindPort (i : Instr) :
    SameBehindPort s q past (exec i s) (exec i { s with inputs := q, responses := past }) := by
  cases i with
  | reset | rdstat => exact sameBehindPort_respond _ _ rfl rfl rfl
  | snew p =>
    simp only [exec, execSnew]
    cases profileRow p with
    | none => exact sameBehindPort_raise _
    | some row => exact sameBehindPort_respond _ _ rfl rfl rfl
  | squeeze | digest => exact sameBehindPort_checked _ (sameBehindPort_squeezeEffect _)
  | fnew | pnew | bget | bset | theta | rho | pi | chi | iota | round | permute | snewc | absorb =>
    exact sameBehindPort_checked _ (sameBehindPort_respond _ _ rfl rfl rfl)

end

/-! ### A bit read after a bit written -/

/-- Coordinates in range have the same address exactly when they are the same (20_memory.md R42). -/
theorem linearIndex_eq_iff {s : State} {x y x' y' : BitVec 3} {z z' : BitVec 7} (hr : CoordinatesInRange s x y z)
    (hr' : CoordinatesInRange s x' y' z') :
    linearIndex s.W.toNat x'.toNat y'.toNat z'.toNat = linearIndex s.W.toNat x.toNat y.toNat z.toNat ↔
      x' = x ∧ y' = y ∧ z' = z := by
  obtain ⟨hx, -, hz⟩ := hr
  obtain ⟨hx', -, hz'⟩ := hr'
  refine ⟨fun h => ?_, fun ⟨hx, hy, hz⟩ => by rw [hx, hy, hz]⟩
  obtain ⟨hx, hy, hz⟩ := linearIndex_inj hx' hz' hx hz h
  exact ⟨BitVec.eq_of_toNat_eq hx, BitVec.eq_of_toNat_eq hy, BitVec.eq_of_toNat_eq hz⟩

theorem bit_writeBit {s : State} (hinv : s.Inv) (hm : s.mode = .perm) {x y x' y' : BitVec 3} {z z' : BitVec 7} (v : Bool)
    (hr : CoordinatesInRange s x y z) (hr' : CoordinatesInRange s x' y' z') :
    (s.writeBit x.toNat y.toNat z.toNat v).bit x'.toNat y'.toNat z'.toNat =
      if x' = x ∧ y' = y ∧ z' = z then v else s.bit x'.toNat y'.toNat z'.toNat := by
  rw [State.bit, State.writeBit_W, State.writeBit_A, bitAt, getLsbD_setBit _ _ _ _ (linearIndex_lt_storage hm hinv hr)]
  simp only [linearIndex_eq_iff hr hr', State.bit, bitAt]

end Sys2Proof.Machine

namespace Sys2Proof.Proofs

open Sys2Proof.Machine

/-- Settles O2: power-on with the input taken. -/
theorem hardwareResetAbandonsCommand : Obligations.HardwareResetAbandonsCommand := fun _ _ _ h => step_of_hardwareReset h

/-- Settles O3: with no input the step answers the state it was given. -/
theorem waitingChangesNothing : Obligations.WaitingChangesNothing := by
  intro s hin
  simp [step, hin]

/-- Settles O4: the step decodes the word and hands it to exec. -/
theorem stepRunsDecodedCommand : Obligations.StepRunsDecodedCommand := by
  intro s w rest i hin hd
  simp only [step, hin, hd]
  rfl

/-- Settles O5, by the ways a step can go. -/
theorem everyStepAnswersNext : Obligations.EveryStepAnswersNext := step_completes

/-- Settles O14, command by command: an error's response has neither value nor bytes, whatever the command. -/
theorem everyCommandReturnsOneResponse : Obligations.EveryCommandReturnsOneResponse := exec_returnsParts

/-- Settles O16, over the ways a command can go. -/
theorem configurationWrittenByConstructionOnly : Obligations.ConfigurationWrittenByConstructionOnly :=
  fun _ _ _ => exec_sameParameters

/-- Settles O17, over the phases a command can leave. -/
theorem noWayBackToAbsorbing : Obligations.NoWayBackToAbsorbing := by
  intro i s t ht
  obtain h | h | ⟨h, hi⟩ | ⟨h, hp, hi⟩ := exec_phase_cases ht <;> rw [h]
  · exact ⟨fun hne heq => absurd heq hne, fun hne heq => absurd heq hne⟩
  · exact ⟨nofun, nofun⟩
  · exact ⟨fun _ _ => hi, nofun⟩
  · refine ⟨nofun, fun hne _ => ⟨?_, hi⟩⟩
    cases hs : s.phase with
    | none => exact absurd hs hp
    | absorbing => rfl
    | squeezing => exact absurd hs hne

/-- Settles O18: ABSORB appends or changes no byte, and the other commands named leave the message. -/
theorem messageBufferBytes : Obligations.MessageBufferBytes := by
  refine ⟨fun cnt d0 d1 d2 s t ht => ?_, fun i s t ht hi a => ?_⟩
  · obtain ⟨e, h⟩ | h := exec_absorb_cases cnt d0 d1 d2 s <;> cases h.symm.trans ht
    · refine ⟨fun a _ => rfl, fun hresp => ?_⟩
      have herr : errorCode e = 0#4 := congrArg Response.err (List.singleton_inj.mp (List.append_cancel_left hresp))
      exact absurd herr (errorCode_ne_zero e)
    · refine ⟨fun a ha => Memory.read_append_left ha, fun _ a ha => (Memory.read_append_right ha).trans ?_⟩
      rw [absorbBytes, List.getElem?_take]
      simp only [Nat.sub_lt_iff_lt_add' ha]
  · have hmsg : t.msg = s.msg := exec_msg_eq ht (by simpa only [PermCommand, or_assoc] using hi)
    rw [hmsg]

/-- Settles O20: no check and no effect looks at either side of the port. -/
theorem commandsIgnorePortHistory : Obligations.CommandsIgnorePortHistory := fun i _ _ _ => exec_sameBehindPort i

/-- Settles O21: a step of a chip changes one element of a list. -/
theorem enginesOfChipAreIndependent : Obligations.EnginesOfChipAreIndependent := by
  intro c c1 c2 j k hjk h1 h2
  rw [Chip.step_eq] at h1 h2
  cases h1
  cases h2
  refine ⟨List.getElem?_modify_ne _ _ hjk, _, Chip.step_eq k _, ?_⟩
  rw [Chip.step_eq, List.modify_modify_ne _ _ _ hjk]

/-- Settles O28: different coordinates in range are different bits of the array. -/
theorem getAfterSet : Obligations.GetAfterSet := by
  intro s x y x' y' z z' v hinv hm hx hy hz hx' hy' hz'
  have hr : CoordinatesInRange s x y z := ⟨hx, hy, hz⟩
  have hr' : CoordinatesInRange s x' y' z' := ⟨hx', hy', hz'⟩
  refine ⟨_, _, _, _, _, exec_bset_of_inRange hm v hr,
    exec_bget_of_inRange (s := (s.writeBit x.toNat y.toNat z.toNat v).succeededWith 0#32 []) hm hr',
    exec_bget_of_inRange hm hr', rfl, rfl, ?_⟩
  rw [← setWidth_ofBool]
  exact (congrArg (fun b => (BitVec.ofBool b).setWidth 32) (bit_writeBit hinv hm v hr hr')).trans
    (apply_ite (fun b => (BitVec.ofBool b).setWidth 32) ..)

end Sys2Proof.Proofs
end

section
/-! PROOFS. Laws of the sponge: the byte form of the padding (42_sponge.md R134), two squeezes as one (R133), what the output
does not depend on (20_memory.md R43), the byte order of lanes (R44) and early absorption (R53). -/

namespace Sys2Proof.Machine

/-! ### Bits of bytes -/

theorem messageBits_cons (v : Byte) (msg : List Byte) : messageBits (v :: msg) = byteBits v ++ messageBits msg := rfl

theorem messageBits_append (msg msg' : List Byte) : messageBits (msg ++ msg') = messageBits msg ++ messageBits msg' :=
  List.flatMap_append

theorem messageBits_drop (k : Nat) (msg : List Byte) : messageBits (msg.drop k) = (messageBits msg).drop (8 * k) := by
  induction k generalizing msg with
  | zero => rfl
  | succ k ih =>
    cases msg with
    | nil => simp [messageBits]
    | cons v vs =>
      rw [List.drop_succ_cons, ih, messageBits_cons, Nat.mul_succ, Nat.add_comm, ← List.drop_drop,
        List.drop_left' (byteBits_length v)]

/-- Zero bytes are zero bits. -/
theorem messageBits_replicate_zero (k : Nat) : messageBits (List.replicate k 0x00#8) = List.replicate (8 * k) false := by
  induction k with
  | zero => rfl
  | succ k ih => rw [List.replicate_succ, messageBits_cons, ih, Nat.mul_succ, Nat.add_comm, List.replicate_add]; rfl

/-- Eight bits are the byte that has them. -/
theorem eq_byteBits {bits : List Bool} {v : Byte} (hlen : bits.length = 8)
    (h : ∀ i < 8, bits.getD i false = v.getLsbD i) : bits = byteBits v := by
  refine List.ext_getElem (hlen.trans (byteBits_length v).symm) fun i hi hi' => ?_
  rw [← List.getD_eq_getElem _ false hi, ← List.getD_eq_getElem _ false hi', h i (hlen ▸ hi), byteBits_getD]

/-! ### The byte form of the padding (R134) -/

section
variable {sfxLen : BitVec 3} {sfx : BitVec 7} (hlen : sfxLen.toNat ≤ 6)
include hlen

/-- The suffix, the first padding bit, zeros and a last bit, as a byte. -/
theorem suffix_byte (hfits : WellFormed.suffixFits sfxLen sfx = true) (last : Bool) :
    suffixBits sfxLen sfx ++ true :: (List.replicate (6 - sfxLen.toNat) false ++ [last]) =
      byteBits (sfx.setWidth 8 ||| BitVec.twoPow 8 sfxLen.toNat ||| if last then 0x80#8 else 0x00#8) := by
  refine eq_byteBits (by simp; omega) fun i hi => ?_
  have hlast : (if last then 0x80#8 else 0x00#8).getLsbD i = (decide (i = 7) && last) := by
    revert i last
    decide
  rw [BitVec.getLsbD_or, BitVec.getLsbD_or, hlast, BitVec.getLsbD_setWidth, BitVec.getLsbD_twoPow, decide_eq_true hi,
    Bool.true_and]
  rcases Nat.lt_trichotomy i sfxLen.toNat with h | rfl | h
  · rw [List.getD_append _ _ _ _ (by simpa using h), suffixBits_getD sfx h]
    simp [h.ne', show i ≠ 7 by omega]
  · rw [List.getD_append_right _ _ _ _ (by simp), suffixBits_length, Nat.sub_self]
    simp [hi]
  · have hsfx : sfx.getLsbD i = false := (Laws.suffixFits_iff_forall sfxLen sfx).mp hfits i h.le
    obtain ⟨k, rfl⟩ : ∃ k, i = sfxLen.toNat + (k + 1) := ⟨i - sfxLen.toNat - 1, by omega⟩
    rw [List.getD_append_right _ _ _ _ (by simp), suffixBits_length, Nat.add_sub_cancel_left, List.getD_cons_succ, hsfx]
    by_cases hk : k < 6 - sfxLen.toNat
    · rw [List.getD_append _ _ _ _ (by simpa using hk)]
      simp [hk, show sfxLen.toNat + (k + 1) ≠ 7 by omega]
    · rw [List.getD_append_right _ _ _ _ (by simpa using hk), List.length_replicate,
        show k - (6 - sfxLen.toNat) = 0 by omega]
      simp [show sfxLen.toNat + (k + 1) = 7 by omega, show sfxLen.toNat ≠ 7 by omega]

/-- Suffix and padding fill up the block from the byte after the message on (R127). -/
theorem sfxLen_add_padZeros {r8 : Nat} (n : Nat) (hr : 0 < r8) :
    sfxLen.toNat + padZeros (8 * r8) (8 * n + sfxLen.toNat) + 2 = 8 * (r8 - n % r8) := by
  have hpad := add_padZeros_eq (8 * n + sfxLen.toNat) (r := 8 * r8) (by omega)
  have hquot : (8 * n + sfxLen.toNat + 1) / (8 * r8) = n / r8 := by
    rw [← Nat.div_div_eq_div_mul]
    congr 1
    omega
  have hdiv : r8 * (n / r8) + n % r8 = n := Nat.div_add_mod n r8
  have hmul : (n / r8 + 1) * (8 * r8) = 8 * (r8 * (n / r8)) + 8 * r8 := by ring
  have hmod : n % r8 < r8 := Nat.mod_lt n hr
  rw [hquot, hmul] at hpad
  omega

end

/-! ### Two squeezes (R133) -/

theorem squeezeLoop_add (rate n m : Nat) (p : SqueezePos) : squeezeLoop rate (n + m) p =
    ((squeezeLoop rate n p).1 ++ (squeezeLoop rate m (squeezeLoop rate n p).2).1,
      (squeezeLoop rate m (squeezeLoop rate n p).2).2) := by
  induction n generalizing p with
  | zero => simp [squeezeLoop]
  | succ n ih => rw [Nat.succ_add, squeezeLoop, squeezeLoop, ih, List.cons_append]

/-- The state after a squeeze of `n` bytes in the Squeezing phase, and its response. -/
def State.squeezed (s : State) (n : Nat) : State :=
  (s.withPos (squeezeLoop s.rate.toNat n ⟨s.A, s.sqOff⟩).2).succeededWith 0#32
    (squeezeLoop s.rate.toNat n ⟨s.A, s.sqOff⟩).1

theorem squeezeEffect_eq_squeezed {s : State} (n : Nat) (hp : s.phase = .squeezing) :
    squeezeEffect n s = .next (s.squeezed n) := by
  rw [squeezeEffect, beginSqueeze_squeezing s hp]
  rfl

/-- Two squeezes differ from one in their responses only: two for one. -/
theorem State.squeezed_squeezed (s : State) (n m : Nat) :
    { (s.squeezed n).squeezed m with responses := (s.squeezed (n + m)).responses } = s.squeezed (n + m) := by
  simp only [State.squeezed, squeezeLoop_add]
  rfl

/-- R133 in the Squeezing phase. -/
theorem incremental_of_squeezing {s : State} (n m : BitVec 16) (hm : s.mode = .sponge) (hp : s.phase = .squeezing)
    (hnm : n.toNat + m.toNat ≤ 65535) :
    ∃ t u v d1 d2, exec (.squeeze n) s = .next t ∧ exec (.squeeze m) t = .next u ∧
      exec (.squeeze (n + m)) s = .next v ∧
      t.responses = s.responses ++ [⟨0#4, 0#32, d1⟩] ∧ u.responses = t.responses ++ [⟨0#4, 0#32, d2⟩] ∧
      v.responses = s.responses ++ [⟨0#4, 0#32, d1 ++ d2⟩] ∧ { u with responses := v.responses } = v := by
  have hexec {s : State} (k : BitVec 16) (hm : s.mode = .sponge) (hp : s.phase = .squeezing) :
      exec (.squeeze k) s = .next (s.squeezed k.toNat) :=
    (exec_squeeze_of_sponge hm k (by simp [hp])).trans (squeezeEffect_eq_squeezed _ hp)
  have hadd : (n + m).toNat = n.toNat + m.toNat := by
    rw [BitVec.toNat_add, Nat.mod_eq_of_lt (by omega)]
  refine ⟨_, _, _, _, _, hexec n hm hp, hexec (s := s.squeezed n.toNat) m hm hp, hadd ▸ hexec (n + m) hm hp, rfl, rfl, ?_,
    s.squeezed_squeezed n.toNat m.toNat⟩
  simp only [State.squeezed, squeezeLoop_add]
  rfl

/-! ### The capacity and the output (20_memory.md R43) -/

/-- An output byte of the rate part does not depend on the bits beyond. -/
theorem outByte_congr {A A' : Bits} {rate o : Nat} (h : ∀ i < rate, A'.getLsbD i = A.getLsbD i) (ho : 8 * o + 8 ≤ rate) :
    outByte A' o = outByte A o := by
  refine BitVec.eq_of_getLsbD_eq fun i hi => ?_
  rw [getLsbD_outByte, getLsbD_outByte, h _ (by omega)]

theorem streamByte_congr {A A' : Bits} {rate t : Nat} (h : ∀ i < rate, A'.getLsbD i = A.getLsbD i) (ht : t < rate / 8) :
    streamByte (rate / 8) A' t = streamByte (rate / 8) A t := by
  rw [streamByte, streamByte, Nat.div_eq_of_lt ht, Nat.mod_eq_of_lt ht, Function.iterate_zero_apply,
    Function.iterate_zero_apply]
  exact outByte_congr h (by omega)

/-! ### Lanes and bytes (20_memory.md R44) -/

/-- Byte `k mod 8` of lane `k div 8` holds the bits from `8k` on. -/
theorem getLsbD_laneByte (A : Bits) (k : Nat) {i : Nat} (hi : i < 8) :
    ((laneNo 64 A (k / 8)).extractLsb' (8 * (k % 8)) 8).getLsbD i = A.getLsbD (8 * k + i) := by
  rw [BitVec.getLsbD_extractLsb', decide_eq_true hi, getLsbD_laneNo, decide_eq_true (by omega), Bool.true_and, Bool.true_and]
  congr 1
  omega

/-! ### Early absorption (20_memory.md R53) -/

/-- Whole blocks before the message change nothing about the padding. -/
theorem padZeros_add_mul (r m n : Nat) : padZeros r (m + n * r) = padZeros r m := by
  have h : -((m + n * r : Nat) : Int) - 2 = -(m : Int) - 2 - n * r := by
    push_cast
    ring
  rw [padZeros, h, Int.sub_mul_emod_self_right, padZeros]

theorem absorbBlocks_zero (rate : Nat) (P : List Bool) (A : Bits) : absorbBlocks rate 0 P A = A := rfl

theorem absorbBlocks_add (rate n k : Nat) (P : List Bool) (A : Bits) :
    absorbBlocks rate (n + k) P A = absorbBlocks rate k (P.drop (n * rate)) (absorbBlocks rate n P A) := by
  induction n generalizing P A with
  | zero => rw [Nat.zero_add, Nat.zero_mul, List.drop_zero, absorbBlocks_zero]
  | succ n ih =>
    rw [Nat.succ_add, absorbBlocks_succ, ih, absorbBlocks_succ, List.drop_drop, Nat.succ_mul, Nat.add_comm rate]

/-- Absorbing `n` blocks reads `n * rate` bits. -/
theorem absorbBlocks_append {rate n : Nat} {P : List Bool} (Q : List Bool) (A : Bits) (h : n * rate ≤ P.length) :
    absorbBlocks rate n (P ++ Q) A = absorbBlocks rate n P A := by
  induction n generalizing P A with
  | zero => rw [absorbBlocks_zero, absorbBlocks_zero]
  | succ n ih =>
    rw [Nat.succ_mul] at h
    have hrate : rate ≤ P.length := by omega
    rw [absorbBlocks_succ, absorbBlocks_succ, List.take_append_of_le_length hrate, List.drop_append_of_le_length hrate,
      ih _ (by rw [List.length_drop]; omega)]

/-- What R53 asks of `n` complete blocks: a legal rate, and a message that holds them. -/
abbrev State.HasBlocks (s : State) (n : Nat) : Prop :=
  validRate s.rate = true ∧ n * s.rate.toNat ≤ 8 * s.msg.length

section
variable {s : State} {n : Nat} (h : s.HasBlocks n)
include h

/-- The bytes of the blocks are bytes of the message, and eight times as many bits. -/
theorem State.HasBlocks.bytes : n * (s.rate.toNat / 8) ≤ s.msg.length ∧ 8 * (n * (s.rate.toNat / 8)) = n * s.rate.toNat := by
  obtain ⟨hrate, hn⟩ := h
  obtain ⟨-, -, h8⟩ := (Laws.validRate_iff s.rate).mp hrate
  have hmul : 8 * (n * (s.rate.toNat / 8)) = n * s.rate.toNat := by
    rw [Nat.mul_left_comm, Nat.mul_div_cancel' (Nat.dvd_of_mod_eq_zero h8)]
  omega

/-- What is left to absorb is the padded message without the blocks. -/
theorem paddedMessage_drop :
    paddedMessage s.rate.toNat s.sfxLen s.sfx (s.msg.drop (n * (s.rate.toNat / 8))) =
      (paddedMessage s.rate.toNat s.sfxLen s.sfx s.msg).drop (n * s.rate.toNat) := by
  obtain ⟨hle, hbits⟩ := h.bytes
  have hsuffixed : suffixedMessage s.sfxLen s.sfx (s.msg.drop (n * (s.rate.toNat / 8))) =
      (suffixedMessage s.sfxLen s.sfx s.msg).drop (n * s.rate.toNat) := by
    rw [suffixedMessage, messageBits_drop, hbits, suffixedMessage, List.drop_append_of_le_length (by simpa using h.2)]
  have hlen : (suffixedMessage s.sfxLen s.sfx s.msg).length =
      (suffixedMessage s.sfxLen s.sfx (s.msg.drop (n * (s.rate.toNat / 8)))).length + n * s.rate.toNat := by
    rw [suffixedMessage_length, suffixedMessage_length, List.length_drop]
    omega
  have hpad : pad s.rate.toNat (suffixedMessage s.sfxLen s.sfx s.msg).length =
      pad s.rate.toNat (suffixedMessage s.sfxLen s.sfx (s.msg.drop (n * (s.rate.toNat / 8)))).length := by
    rw [hlen, pad, padZeros_add_mul, pad]
  rw [paddedMessage, paddedMessage, hpad, List.drop_append_of_le_length (by omega), hsuffixed]

/-- Finalization ends at the same array (R53). -/
theorem finalArray_absorbedEarly : finalArray (s.absorbedEarly n) = finalArray s := by
  obtain ⟨hpos, -, -⟩ := (Laws.validRate_iff s.rate).mp h.1
  have hblocks : (paddedMessage s.rate.toNat s.sfxLen s.sfx s.msg).length / s.rate.toNat =
      n + ((paddedMessage s.rate.toNat s.sfxLen s.sfx s.msg).length - n * s.rate.toNat) / s.rate.toNat := by
    have hle : n * s.rate.toNat ≤ (paddedMessage s.rate.toNat s.sfxLen s.sfx s.msg).length := by
      rw [paddedMessage, List.length_append, suffixedMessage_length]
      have := h.2
      omega
    conv_lhs => rw [← Nat.add_sub_cancel' hle, Nat.add_comm, Nat.add_mul_div_right _ _ hpos, Nat.add_comm]
  have hearly : absorbBlocks s.rate.toNat n (messageBits s.msg) s.A =
      absorbBlocks s.rate.toNat n (paddedMessage s.rate.toNat s.sfxLen s.sfx s.msg) s.A := by
    rw [paddedMessage, suffixedMessage, List.append_assoc, absorbBlocks_append _ _ (by simpa using h.2)]
  rw [finalArray, finalArray, State.absorbedEarly_A, State.absorbedEarly_msg, State.absorbedEarly_rate,
    State.absorbedEarly_sfxLen, State.absorbedEarly_sfx, paddedMessage_drop h, List.length_drop, hblocks, absorbBlocks_add,
    hearly]

theorem State.finalize_absorbedEarly : (s.absorbedEarly n).finalize = s.finalize := by
  rw [State.finalize, finalArray_absorbedEarly h, State.finalize]
  rfl

/-- Bytes appended stay behind the blocks. -/
theorem State.append_absorbedEarly (v : List Byte) : (s.absorbedEarly n).append v = (s.append v).absorbedEarly n := by
  obtain ⟨hle, -⟩ := h.bytes
  have hA : absorbBlocks s.rate.toNat n (messageBits (s.msg ++ v)) s.A =
      absorbBlocks s.rate.toNat n (messageBits s.msg) s.A := by
    rw [messageBits_append, absorbBlocks_append _ _ (by simpa using h.2)]
  simp only [State.absorbedEarly, State.append, List.drop_append_of_le_length hle, hA]

end

/-- A sponge that absorbs, with no bound on the message, which holds `n` complete blocks. -/
abbrev State.AbsorbsBlocks (s : State) (n : Nat) : Prop :=
  s.mode = .sponge ∧ s.phase = .absorbing ∧ s.cfg.msgCap = none ∧ s.HasBlocks n

/-- Result `a`, of a command in `s`, and result `b`, of the same command after `n` blocks were absorbed early: the same
response, and the same state or again two states that differ by those blocks (R53). -/
def AlikeAfterEarly (s : State) (n : Nat) (a b : Result) : Prop :=
  ∃ t u r, a = .next t ∧ b = .next u ∧ t.responses = s.responses ++ [r] ∧ u.responses = s.responses ++ [r] ∧
    (u = t ∨ (u = t.absorbedEarly n ∧ t.AbsorbsBlocks n))

theorem alikeAfterEarly_same {s u : State} (n : Nat) (val : Word) (dout : List Byte) (hu : u.responses = s.responses) :
    AlikeAfterEarly s n (respond val dout u) (respond val dout u) :=
  ⟨_, _, okResponse val dout, rfl, rfl, by rw [State.reply_responses, hu], by rw [State.reply_responses, hu], .inl rfl⟩

section
variable {s : State} {n : Nat} (h : s.AbsorbsBlocks n)
include h

theorem alikeAfterEarly_raise (e : EngineError) : AlikeAfterEarly s n (raise e s) (raise e (s.absorbedEarly n)) :=
  ⟨_, _, errorResponse e, rfl, rfl, rfl, rfl, .inr ⟨rfl, h⟩⟩

/-- The shape of every command with checks that do not look at the message. -/
theorem alikeAfterEarly_checked {a b : Result} (c : Option EngineError) (hab : AlikeAfterEarly s n a b) :
    AlikeAfterEarly s n (match c with | some e => raise e s | none => a)
      (match c with | some e => raise e (s.absorbedEarly n) | none => b) := by
  cases c with
  | none => exact hab
  | some e => exact alikeAfterEarly_raise h e

/-- A squeeze finalizes first, to the same state. -/
theorem alikeAfterEarly_squeezeEffect (k : Nat) :
    AlikeAfterEarly s n (squeezeEffect k s) (squeezeEffect k (s.absorbedEarly n)) := by
  obtain ⟨-, hp, -, hblocks⟩ := h
  rw [squeezeEffect_finalize k hp, squeezeEffect_finalize (s := s.absorbedEarly n) k hp, State.finalize_absorbedEarly hblocks,
    squeezeEffect, beginSqueeze_squeezing s.finalize rfl]
  exact alikeAfterEarly_same n _ _ rfl

theorem alikeAfterEarly_absorb (cnt : BitVec 2) (d0 d1 d2 : Byte) :
    AlikeAfterEarly s n (exec (.absorb cnt d0 d1 d2) s) (exec (.absorb cnt d0 d1 d2) (s.absorbedEarly n)) := by
  obtain ⟨hm, hp, hcap, hblocks⟩ := h
  cases hwf : WellFormed.dataFits cnt d0 d1 d2 with
  | false =>
    rw [exec_absorb_of_not_dataFits hwf, exec_absorb_of_not_dataFits hwf]
    exact alikeAfterEarly_raise ⟨hm, hp, hcap, hblocks⟩ .illegalCommand
  | true =>
    have hfits (k : Nat) : fitsCap s.cfg k = true := by simp [Laws.fitsCap_iff, hcap]
    rw [exec_absorb_of_fitsCap hwf hm hp (hfits _), exec_absorb_of_fitsCap (s := s.absorbedEarly n) hwf hm hp (hfits _),
      State.append_absorbedEarly hblocks]
    have happend : (s.append (absorbBytes cnt d0 d1 d2)).HasBlocks n := by
      refine ⟨hblocks.1, hblocks.2.trans ?_⟩
      simp
    exact ⟨_, _, _, rfl, rfl, rfl, rfl, .inr ⟨rfl, hm, hp, hcap, happend⟩⟩

/-- No command tells the two states apart (R53). -/
theorem exec_alikeAfterEarly (i : Instr) : AlikeAfterEarly s n (exec i s) (exec i (s.absorbedEarly n)) := by
  cases i with
  | reset => exact alikeAfterEarly_same n _ _ rfl
  | rdstat => exact ⟨_, _, _, rfl, rfl, rfl, rfl, .inr ⟨rfl, h⟩⟩
  | snew p =>
    simp only [exec, execSnew]
    cases profileRow p with
    | none => exact alikeAfterEarly_raise h _
    | some row => exact alikeAfterEarly_same n _ _ rfl
  | fnew | pnew | snewc => exact alikeAfterEarly_checked h _ (alikeAfterEarly_same n _ _ rfl)
  | absorb cnt d0 d1 d2 => exact alikeAfterEarly_absorb h cnt d0 d1 d2
  | squeeze | digest => exact alikeAfterEarly_checked h _ (alikeAfterEarly_squeezeEffect h _)
  | bget | bset | theta | rho | pi | chi | iota | round | permute =>
    have hm : s.mode ≠ .perm := by simp [h.1]
    rw [exec_permCommand_of_ne (by simp [PermCommand]) hm,
      exec_permCommand_of_ne (s := s.absorbedEarly n) (by simp [PermCommand]) hm]
    exact alikeAfterEarly_raise h _

end

end Sys2Proof.Machine

namespace Sys2Proof.Proofs

open Sys2Proof.Machine Sys2Proof.Laws

/-- Settles O50: suffix and padding take up whole bytes, of which the first holds suffix and first 1, the last the last 1. -/
theorem byteFormOfPadding : Obligations.ByteFormOfPadding := by
  intro rate sfxLen sfx msg hrate hlen hfits r8 q first
  obtain ⟨hr0, -, h8⟩ := (validRate_iff rate).mp hrate
  have hr8 : rate.toNat = 8 * r8 := by omega
  have hq : q < r8 := Nat.mod_lt _ (by omega)
  have hzeros : sfxLen.toNat + padZeros (8 * r8) (8 * msg.length + sfxLen.toNat) + 2 = 8 * (r8 - q) :=
    sfxLen_add_padZeros hlen msg.length (by omega)
  rw [paddedMessage, suffixedMessage_length, suffixedMessage, messageBits_append, List.append_assoc, hr8, pad]
  congr 1
  split
  · next hlong =>
    have hj : padZeros (8 * r8) (8 * msg.length + sfxLen.toNat) = (6 - sfxLen.toNat) + 1 + 8 * (r8 - q - 2) + 7 := by omega
    have hfirst : byteBits first = suffixBits sfxLen sfx ++ true :: (List.replicate (6 - sfxLen.toNat) false ++ [false]) := by
      simpa [first] using (suffix_byte hlen hfits false).symm
    have hlast : messageBits [0x80#8] = List.replicate 7 false ++ [true] := by decide
    rw [hj, messageBits_cons, hfirst, messageBits_append, messageBits_replicate_zero, hlast]
    simp only [List.replicate_add, List.append_assoc, List.cons_append]
    rfl
  · next hshort =>
    have hj : padZeros (8 * r8) (8 * msg.length + sfxLen.toNat) = 6 - sfxLen.toNat := by omega
    rw [hj, suffix_byte hlen hfits true, messageBits_cons]
    simp [messageBits, first]

/-- Settles O54: the loop of SQUEEZE n + m is that of n followed by that of m; the first SQUEEZE finalizes where that is due. -/
theorem incrementalSqueeze : Obligations.IncrementalSqueeze := by
  intro s n m hm hp hnm
  cases h : s.phase with
  | none => exact absurd h hp
  | squeezing => exact incremental_of_squeezing n m hm h hnm
  | absorbing =>
    have hexec (k : BitVec 16) : exec (.squeeze k) s = exec (.squeeze k) s.finalize := by
      obtain ⟨t, ht, ht'⟩ := exec_squeeze_finalize hm h k
      rw [ht, ht']
    rw [hexec, hexec]
    exact incremental_of_squeezing (s := s.finalize) n m hm rfl hnm

/-- Settles O55: within the block the bytes come from the bits below RATE. -/
theorem capacityIsNeverOutput : Obligations.CapacityIsNeverOutput := by
  intro s A' n hinv hm hp hA hblock
  obtain ⟨hr0, hr1, hr8⟩ := State.rate_of_sponge hinv hm
  have hpos : 0 < s.rate.toNat / 8 := by omega
  have hlt : s.rate.toNat / 8 < 256 := by omega
  have hoff : s.sqOff.toNat ≤ s.rate.toNat / 8 := by omega
  have hexec (A : Bits) := (exec_squeeze_of_sponge (s := { s with A := A }) hm n (by simp [hp])).trans
    (squeezeEffect_squeezing (s := { s with A := A }) n.toNat hp hpos hlt (by exact hoff))
  have hbytes : (List.range' s.sqOff.toNat n.toNat).map (streamByte (s.rate.toNat / 8) A') =
      (List.range' s.sqOff.toNat n.toNat).map (streamByte (s.rate.toNat / 8) s.A) := by
    refine List.map_congr_left fun t ht => streamByte_congr hA ?_
    obtain ⟨-, hlt⟩ := List.mem_range'_1.mp ht
    omega
  exact ⟨_, _, _, hexec s.A, hexec A', rfl, congrArg (fun d => s.responses ++ [⟨0#4, 0#32, d⟩]) hbytes⟩

/-- Settles O56: both sides read or write the bits from `8k` on. -/
theorem lanesAreLittleEndian : Obligations.LanesAreLittleEndian := by
  refine ⟨fun A k _ => BitVec.eq_of_getLsbD_eq fun i hi => ?_, fun msg k hk => BitVec.eq_of_getLsbD_eq fun i hi => ?_⟩
  · rw [getLsbD_laneByte A k hi, getLsbD_outByte, decide_eq_true hi, Bool.true_and]
  · rw [getLsbD_laneByte _ k hi, getLsbD_bitsOf _ _ (by omega), messageBits_getD, show (8 * k + i) / 8 = k by omega,
      show (8 * k + i) % 8 = i by omega]

/-- Settles O57: finalization absorbs the blocks first anyway, ABSORB appends behind them, RDSTAT reads neither array nor
message, and any other command raises the same error or starts anew. -/
theorem earlyAbsorptionIsUnobservable : Obligations.EarlyAbsorptionIsUnobservable := by
  intro s n hrate hn
  exact ⟨finalArray_absorbedEarly ⟨hrate, hn⟩, fun hm hp hcap i => exec_alikeAfterEarly ⟨hm, hp, hcap, hrate, hn⟩ i⟩

end Sys2Proof.Proofs
end
